-- ==== Sys2Proof/Word.lean ====
section
/-! DEFINITION. The word types of CORE (spec 00_scope.md R8, R9, R11, R19; 20_memory.md R53, R54): bytes, line
addresses, byte addresses, and one line of the backing store as the four bytes CORE reads and writes it as. -/

namespace Sys2Proof

/-- A byte: configuration data, operand bytes, weights (R19). -/
abbrev Byte := BitVec 8

/-- A line address, `LINE_ADDR_BITS = 24` (R11). -/
abbrev LineAddr := BitVec 24

/-- A byte address, `PC_BITS = 26`: a line address and a 2-bit byte-select (R11, R54). -/
abbrev ByteAddr := BitVec 26

/-- One line of the backing store: `LINE_BYTES = 4` bytes, index = byte-select (R8, R53). CORE never uses a word view
of it (R55). -/
abbrev Line := Vector Byte 4

end Sys2Proof
end

