-- ==== Sys2Proof/Machine/Inputs.lean ====
section
/-! DEFINITION. What the environment drives in one clock cycle (00_scope.md R7; 10_state.md R43 to R48): the read port, the
write port, the host and the dataflow core. -/

namespace Sys2Proof.Machine

/-- A write of one whole line (20_memory.md R57: no write is partial). -/
structure LineWrite where
  line : LineAddr
  data : Line
  deriving DecidableEq, Repr

/-- What the environment drives in ONE clock cycle. The line that answers a read and the tree's read-back are not here:
the memory's duty (R56) and the reference sink (R140) make them functions of the state. -/
structure Inputs where
  /-- `rst` (R43, R110). -/
  rst : Bool
  /-- `start` (R43, R112). -/
  start : Bool
  /-- `mem_rd_ready` (R44). -/
  rdReady : Bool
  /-- `mem_rd_valid` (R44). -/
  rdValid : Bool
  /-- `mem_wr_ready` (R45). -/
  wrReady : Bool
  /-- `mem_wr_ack` (R45). -/
  wrAck : Bool
  /-- `df_done` (R48). -/
  dfDone : Bool
  /-- The lines the dataflow core writes into `M` in this cycle, by its own path (R143: only while `df_valid = 1`, and
  before it raises `df_done`). -/
  dfWrites : List LineWrite
  /-- The lines the host writes into `M` in this cycle (R174: only while `st = RESET`). -/
  hostWrites : List LineWrite
  deriving DecidableEq, Repr, Inhabited

/-- A cycle in which the environment drives nothing. -/
def Inputs.idle : Inputs where
  rst := false
  start := false
  rdReady := false
  rdValid := false
  wrReady := false
  wrAck := false
  dfDone := false
  dfWrites := []
  hostWrites := []

end Sys2Proof.Machine
end

