-- ==== Sys2Proof/Config.lean ====
section
/-! DEFINITION. What one build and one launch of CORE fix: the named constants of 00_scope.md R8 to R18 that no test
can show wrong without changing a type, and the values the spec leaves open (93_implementation_defined.md I8 to I14),
as opaque constants that nothing can evaluate. The parameters that another reading of the source would change
(NUM_ADDERS, WEIGHT_NODE_BASE, ITERS_W) stand in Machine/Params.lean. -/

namespace Sys2Proof.Config

/-- `LINE_BYTES` (R8): bytes of a line, and the number of fan-out lanes. -/
abbrev lineBytes : Nat := 4

/-- `SEL_BITS` (R9). -/
abbrev selBits : Nat := 2

/-- `ADDR_BYTES` (R10). -/
abbrev addrBytes : Nat := 3

/-- `INSTR_LINES` (R12): lines of the instruction region of the reference image. -/
abbrev instrLines : Nat := 128

/-- `CONFIG_LINES` (R12): lines of the configuration region of the reference image. -/
abbrev configLines : Nat := 128

/-- `NUM_NODES` (R13): nodes of the reduction tree. -/
abbrev numNodes : Nat := 63

/-- FREE VALUE `TREE_INIT` (R52, R140; 93 I13): the state code that node `n` holds at the launch. No rule assumes it is
zero. Assumption log 4. -/
opaque treeInitState : Nat → Byte

/-- FREE VALUE `TREE_INIT` (R52, R140; 93 I13): the weight byte that node `n` holds at the launch. Assumption log 4. -/
opaque treeInitWeight : Nat → Byte

/-- FREE VALUE `MEM_INIT` (R58, R52; 93 I12): the byte that a byte address holds at the launch, where the state lists none.
No rule assumes it is zero. Assumption log 3. -/
opaque memInit : Nat → Byte

/-- FREE VALUE (93 I14): the line writes the dataflow core makes, by its own path, during a hand-off that a step runs to its
end, where State's own queue of them is empty: the `n`-th such draw of the launch. Assumption log 5. -/
opaque handoffWrites : Nat → List Machine.LineWrite

/-- FREE VALUE (93 I8 to I11): what the environment drives in the `n`-th clock cycle it draws freely. Every answer may come
in any cycle, or never (60_exceptions.md R158). Assumption log 2. -/
opaque drawnInputs : Nat → Machine.Inputs

end Sys2Proof.Config
end

