-- ==== Sys2Proof/Syntax.lean ====
section
/-! DEFINITION. The seven instructions of CORE (00_scope.md R2, 30_encoding.md R92), one constructor per row of
spec/opcode_table.json, the operands in the order of the assembly syntax (R105). Every operand is an immediate field
(R26), and its width is in its type, so that every term is an instruction CORE executes: no operand value is reserved
(R94). -/

namespace Sys2Proof

inductive Instr where
  /-- `Reset`: format F0 (R86, R125). -/
  | reset
  /-- `ConfigureStates <line>`: format FA; `line` is the first line of the state payload (R87, R132). -/
  | configureStates (line : LineAddr)
  /-- `ConfigureWeights <line>`: format FA; `line` is the first line of the weight payload (R87, R133). -/
  | configureWeights (line : LineAddr)
  /-- `LoadFeatures <pbuf>, <lcount>, <line>`: format FB (R88, R144). -/
  | loadFeatures (pbuf lcount : Byte) (line : LineAddr)
  /-- `StoreFeatures <pbuf>, <lcount>, <line>`: format FB (R88, R145). -/
  | storeFeatures (pbuf lcount : Byte) (line : LineAddr)
  /-- `Run <len>`: format FA; `len` is the 24-bit execution length (R87, R90, R146). -/
  | run (len : BitVec 24)
  /-- `Debug <line>`: format FA; `line` is the first line written (R87, R148). -/
  | debug (line : LineAddr)
  deriving DecidableEq, Repr

end Sys2Proof
end

