-- ==== Sys2Proof/Decode.lean ====
section
/-! DEFINITION. The opcode map and the operand arity (00_scope.md R15, R17; 30_encoding.md R92, R95), the decoder of a
byte list, total, rejecting by name, and the encoder written from the same formats (R86 to R89). -/

namespace Sys2Proof

/-- The recognised opcodes (R17). -/
inductive Opcode where
  | reset | configureStates | configureWeights | loadFeatures | storeFeatures | run | debug
  deriving DecidableEq, Repr

/-- The opcode byte, `OPC_*` (R17). -/
def Opcode.code : Opcode → Byte
  | .reset => 0x01
  | .configureStates => 0x02
  | .configureWeights => 0x03
  | .loadFeatures => 0x04
  | .storeFeatures => 0x05
  | .run => 0x06
  | .debug => 0x07

/-- The opcode map: every bit of the byte is compared (R92), and the other 249 bytes are illegal (R93). -/
def Opcode.ofByte (b : Byte) : Option Opcode :=
  match b.toNat with
  | 1 => some .reset
  | 2 => some .configureStates
  | 3 => some .configureWeights
  | 4 => some .loadFeatures
  | 5 => some .storeFeatures
  | 6 => some .run
  | 7 => some .debug
  | _ => none

/-- `ARITY(op)` of a recognised opcode, in operand bytes (R15). -/
def Opcode.arity : Opcode → Nat
  | .reset => 0
  | .configureStates => 3
  | .configureWeights => 3
  | .loadFeatures => 5
  | .storeFeatures => 5
  | .run => 3
  | .debug => 3

/-- `ARITY` as the total function of the opcode byte that R15 makes it: 0 for an illegal byte. -/
def arity (b : Byte) : Nat :=
  match Opcode.ofByte b with
  | some op => op.arity
  | none => 0

/-- Why a byte list is no instruction. `unknownOpcode` is the decode fault of R127; CORE itself never meets
`truncated`, since memory has a byte at every address (R58). -/
inductive DecodeError where
  | truncated
  | unknownOpcode (b : Byte)
  deriving DecidableEq, Repr

/-- The address field `a = byte3 ‖ byte2 ‖ byte1` (R89). -/
def addrOfBytes (b0 b1 b2 : Byte) : BitVec 24 := b2 ++ b1 ++ b0

/-- Byte `k` of the address field, least significant first (R89). -/
def addrByte (a : BitVec 24) (k : Nat) : Byte := a.extractLsb' (8 * k) 8

/-- The three operand bytes of format FA (R87). -/
def decodeFA (mk : BitVec 24 → Instr) : List Byte → Except DecodeError (Instr × List Byte)
  | b0 :: b1 :: b2 :: rest => .ok (mk (addrOfBytes b0 b1 b2), rest)
  | _ => .error .truncated

/-- The five operand bytes of format FB: the address, then `pbuf`, then `lcount` (R88). -/
def decodeFB (mk : Byte → Byte → BitVec 24 → Instr) : List Byte → Except DecodeError (Instr × List Byte)
  | b0 :: b1 :: b2 :: pbuf :: lcount :: rest => .ok (mk pbuf lcount (addrOfBytes b0 b1 b2), rest)
  | _ => .error .truncated

/-- The instruction at the head of a byte list, and the bytes after it (R85 to R95). -/
def decode : List Byte → Except DecodeError (Instr × List Byte)
  | [] => .error .truncated
  | b :: rest =>
    match Opcode.ofByte b with
    | some .reset => .ok (.reset, rest)
    | some .configureStates => decodeFA .configureStates rest
    | some .configureWeights => decodeFA .configureWeights rest
    | some .loadFeatures => decodeFB .loadFeatures rest
    | some .storeFeatures => decodeFB .storeFeatures rest
    | some .run => decodeFA .run rest
    | some .debug => decodeFA .debug rest
    | none => .error (.unknownOpcode b)

/-- The opcode of an instruction (R92). -/
def Instr.opcode : Instr → Opcode
  | .reset => .reset
  | .configureStates _ => .configureStates
  | .configureWeights _ => .configureWeights
  | .loadFeatures _ _ _ => .loadFeatures
  | .storeFeatures _ _ _ => .storeFeatures
  | .run _ => .run
  | .debug _ => .debug

/-- The bytes of format FA (R87). -/
def encodeFA (op : Opcode) (a : BitVec 24) : List Byte :=
  [op.code, addrByte a 0, addrByte a 1, addrByte a 2]

/-- The bytes of format FB (R88). -/
def encodeFB (op : Opcode) (pbuf lcount : Byte) (a : BitVec 24) : List Byte :=
  [op.code, addrByte a 0, addrByte a 1, addrByte a 2, pbuf, lcount]

/-- The bytes of an instruction, in the order of the instruction stream (R85 to R88, R105). -/
def encode : Instr → List Byte
  | .reset => [Opcode.reset.code]
  | .configureStates line => encodeFA .configureStates line
  | .configureWeights line => encodeFA .configureWeights line
  | .loadFeatures pbuf lcount line => encodeFB .loadFeatures pbuf lcount line
  | .storeFeatures pbuf lcount line => encodeFB .storeFeatures pbuf lcount line
  | .run len => encodeFA .run len
  | .debug line => encodeFA .debug line

/-- `n` bytes of the number `w`, the least significant first: how an instruction's bytes lie in memory when its bits are
numbered as spec/opcode_table.json numbers them. -/
def tableBytes : Nat → Nat → List Byte
  | 0, _ => []
  | n + 1, w => BitVec.ofNat 8 w :: tableBytes n (w / 256)

/-- The number whose bits are those of the bytes, the first byte the least significant: an instruction's word as
spec/opcode_table.json numbers it. -/
def tableWord : List Byte → Nat
  | [] => 0
  | b :: rest => b.toNat + 256 * tableWord rest

/-- What the decoder reads from an instruction whose low `nbits` bits are `w` and whose other bits, up to the longest
instruction (6 bytes), are zero. -/
def decodeTableWord (nbits w : Nat) : Option Instr :=
  match decode (tableBytes 6 (w % 2 ^ nbits)) with
  | .ok (i, _) => some i
  | .error _ => none

end Sys2Proof
end

