-- ==== Sys2Proof/Machine/State.lean ====
section
/-! DEFINITION. The state: CORE's registers (10_state.md R27 to R42), the two pieces of state of other agents that a run
needs (R51: the backing store and the tree's node registers), and the MODEL's own fields, which carry what the
environment does and what it has observed. The reasons a step stops, and the state after reset. -/

namespace Sys2Proof.Machine

/-- The nine automaton states (R27, with the source's names, R25). -/
inductive AutoState where
  | reset | fetchOp | fetchParams | configureStates | configureWeights | loadFeatures | storeFeatures | run | debug
  deriving DecidableEq, Repr

/-- The adaptor's fetch phase (R41). -/
inductive FetchPhase where
  | idle | issue | wait
  deriving DecidableEq, Repr

/-- The automaton's registers (R27 to R36). -/
structure Automaton where
  /-- `st` (R27). -/
  st : AutoState
  /-- `pc`, the address of the next instruction byte (R28). -/
  pc : ByteAddr
  /-- `opcode` (R29). -/
  opcode : Byte
  /-- `n_params` (R30). -/
  nParams : BitVec 3
  /-- `param_cnt` (R31). -/
  paramCnt : BitVec 3
  /-- `addr`, the address staging register (R32). -/
  addr : LineAddr
  /-- `pbuf` (R33). -/
  pbuf : Byte
  /-- `lcount` (R34). -/
  lcount : Byte
  /-- `offset`, the lines completed by the current transfer or read-back (R35). -/
  offset : BitVec 5
  /-- `wr_wait` (R36). -/
  wrWait : Bool
  deriving DecidableEq, Repr

/-- The adaptor's registers (R38 to R42). -/
structure Adaptor where
  /-- `c_valid` (R38). -/
  cValid : Bool
  /-- `c_tag` (R39). -/
  cTag : LineAddr
  /-- `c_data` (R40). -/
  cData : Line
  /-- `a_phase` (R41). -/
  phase : FetchPhase
  /-- `a_line` (R42). -/
  aLine : LineAddr
  deriving DecidableEq, Repr

/-- What the environment does in the clock cycles that no script lists (R7, R56, R143, R158). -/
inductive Thereafter where
  /-- FAIRNESS: the memory and the dataflow core keep their duty to answer, and the host drives nothing. A step then runs to
  the next instruction boundary (R121), or waits in RESET. A claim that rests on it names it. -/
  | fair
  /-- The same inputs in every cycle, for ever: a memory or a dataflow core that never answers is one such (R158, R180). -/
  | steady (inp : Inputs)
  /-- The cycles from the `n`-th on of a free infinite sequence: every latency, and every wait that never ends (93 I8 to
  I11). -/
  | drawn (n : Nat)
  deriving DecidableEq, Repr

/-- One configuration byte that reaches a node (R46, R138). -/
structure NodeWrite where
  node : Nat
  data : Byte
  wsel : Bool
  deriving DecidableEq, Repr

/-- The observable results of a run (R122). -/
inductive Event where
  /-- The node-level configuration writes of one cycle, in node order (R138). -/
  | nodeWrites (writes : List NodeWrite)
  /-- A hand-off presented to the dataflow core (R143). -/
  | handOff (op : Byte) (addr : BitVec 24) (pbuf lcount : Byte)
  /-- A line write accepted by the write port (R57, R150). -/
  | lineWrite (line : LineAddr) (data : Line)
  deriving DecidableEq, Repr

/-- The backing store as (byte key, byte) pairs in canonical form (`Memory.wf`, Machine/Ops.lean). The byte with
byte-select `i` of line `l` has the key `4 * l + i`, which is its byte address (R54). -/
abbrev Memory := List Host.Cell

structure State where
  /-- The automaton's registers (R27 to R36). -/
  auto : Automaton
  /-- The adaptor's registers (R38 to R42). -/
  adaptor : Adaptor
  /-- The backing store `M` (R51, R53). -/
  mem : Memory
  /-- The tree's state codes, `S[n]` of the reference sink (R51, R140). -/
  nodeState : Vector Byte Config.numNodes
  /-- The tree's weight bytes, `W[n]` of the reference sink (R51, R140). -/
  nodeWeight : Vector Byte Config.numNodes
  /-- MODEL's own: what the environment drives in the coming clock cycles, oldest first. While it lists a cycle, a step
  is that clock cycle. Assumption log 1 and 2. -/
  inputs : List Inputs
  /-- MODEL's own: what the environment does after those cycles. Assumption log 1 and 2. -/
  thereafter : Thereafter
  /-- MODEL's own: the lines the dataflow core writes in each coming hand-off that a step runs to its end, oldest first. In
  clock cycles the writes are the cycle's own inputs. Assumption log 5. -/
  handoffWrites : List (List LineWrite)
  /-- MODEL's own: the free values drawn so far for hand-offs that `handoffWrites` does not list. Assumption log 5. -/
  handoffDraws : Nat
  /-- MODEL's own: whether the current hand-off has been observed. Assumption log 7. -/
  dfBusy : Bool
  /-- MODEL's own: the observable results so far, NEWEST FIRST (R122). Assumption log 11. -/
  events : List Event
  deriving DecidableEq, Repr

/-- The reasons a step stops the machine. CORE's one runtime fault, the unknown opcode, is none of them: it takes the
reset action and goes on (60_exceptions.md R153, R160). -/
inductive Fault where
  /-- Raised by a dispatch (FETCH_PARAMS with `param_cnt = n_params`) whose `opcode` register is no opcode with an execute
  state. R116 gives `EXEC` no such case, and no run from reset reaches it (Safety.lean's `Inv`). SAFE: the machine stops
  where the spec gives no transition. Assumption log 8. -/
  | dispatchWithoutState
  deriving DecidableEq, Repr

/-- The reasons a step has no meaning. -/
inductive Refusal where
  /-- Raised by an arm of `exec` whose instruction has no meaning yet: none is left. SAFE. -/
  | notModelled (mnemonic : String)
  /-- Raised by a clock cycle whose inputs make the host write `M` where R174 gives it no move (`st ≠ RESET`, or a fetch
  outstanding, or in a cycle with `rst` or `start`; 93 I17: `refuse`). SAFE: such an environment is not admitted.
  Assumption log 10. -/
  | hostWriteOutsideReset
  /-- Raised by a clock cycle whose inputs make the dataflow core write `M` where R143 gives it no move (`df_valid = 0`, or in
  the cycle with `df_done = 1`: every write is finished before it). SAFE: such an environment is not admitted.
  Assumption log 10. -/
  | dataflowWriteOutsideHandoff
  deriving DecidableEq, Repr

/-- The automaton's reset values (R168, R126). -/
def Automaton.reset : Automaton where
  st := .reset
  pc := 0
  opcode := 0
  nParams := 0
  paramCnt := 0
  addr := 0
  pbuf := 0
  lcount := 0
  offset := 0
  wrWait := false

/-- The adaptor's reset values (R168, R73). -/
def Adaptor.reset : Adaptor where
  cValid := false
  cTag := 0
  cData := #v[0, 0, 0, 0]
  phase := .idle
  aLine := 0

/-- The state after the first `rst` cycle, which is a model's initial state (R170): CORE's registers as R168 says,
nothing listed in memory, the node registers at `TREE_INIT` (R140), nothing observed, nothing pending. -/
def State.reset : State where
  auto := .reset
  adaptor := .reset
  mem := []
  nodeState := Vector.ofFn fun n => Config.treeInitState n.val
  nodeWeight := Vector.ofFn fun n => Config.treeInitWeight n.val
  inputs := []
  thereafter := .fair
  handoffWrites := []
  handoffDraws := 0
  dfBusy := false
  events := []

end Sys2Proof.Machine
end

