-- ==== Sys2Proof/Machine/Operands.lean ====
section
/-! DEFINITION. Byte addresses and their parts (20_memory.md R54, R69), the staging registers operand bytes stream into
(30_encoding.md R89, R91; 40_automaton.md R114), and the execute state of an opcode (R116). -/

namespace Sys2Proof.Machine

/-- The line address `b[25:2]` of a byte address (R54). -/
def lineOf (b : ByteAddr) : LineAddr := b.extractLsb' 2 24

/-- The byte-select `b[1:0]` of a byte address (R54). -/
def selOf (b : ByteAddr) : BitVec 2 := b.extractLsb' 0 2

/-- The first byte address of a line, `l ‖ 00` (R89, R111). -/
def firstByteOf (l : LineAddr) : ByteAddr := l ++ 0#2

/-- `L[i]`, the byte of a line that a byte-select names (R69). -/
def lineByte (L : Line) (i : BitVec 2) : Byte := L[i.toNat]'(i.isLt)

/-- The line `addr + zext_24(offset)`, modulo 2^24 (R111, R134, R148). -/
def lineAt (addr : LineAddr) (offset : BitVec 5) : LineAddr := addr + offset.setWidth 24

/-- `addr[8k+7:8k] <- b`, for `k < ADDR_BYTES` (R32, R114). -/
def setAddrByte (k : Nat) (b : Byte) (a : LineAddr) : LineAddr :=
  match k with
  | 0 => a.extractLsb' 8 16 ++ b
  | 1 => a.extractLsb' 16 8 ++ b ++ a.extractLsb' 0 8
  | 2 => b ++ a.extractLsb' 0 16
  | _ => a

/-- FETCH_PARAMS accepting one operand byte (R114): it goes to its place in the staging registers, and the operand count
and the pc advance. -/
def acceptOperand (b : Byte) (a : Automaton) : Automaton :=
  let k := a.paramCnt.toNat
  let staged : Automaton :=
    if k < Config.addrBytes then { a with addr := setAddrByte k b a.addr }
    else if k = Config.addrBytes then { a with pbuf := b }
    else if k = Config.addrBytes + 1 then { a with lcount := b }
    else a
  { staged with paramCnt := a.paramCnt + 1, pc := a.pc + 1 }

/-- The instruction the staging registers hold, as the bytes that put it there: what a dispatch decodes. -/
def stagedBytes (a : Automaton) : List Byte :=
  [a.opcode, addrByte a.addr 0, addrByte a.addr 1, addrByte a.addr 2, a.pbuf, a.lcount]

/-- `EXEC(opcode)`: the execute state of a recognised opcode other than `Reset` (R116). -/
def opcodeExecState : Opcode → Option AutoState
  | .reset => none
  | .configureStates => some .configureStates
  | .configureWeights => some .configureWeights
  | .loadFeatures => some .loadFeatures
  | .storeFeatures => some .storeFeatures
  | .run => some .run
  | .debug => some .debug

/-- `EXEC` on an opcode byte; none for `Reset` and for an illegal byte (R116). -/
def execState (b : Byte) : Option AutoState := (Opcode.ofByte b).bind opcodeExecState

/-- FETCH_OP accepting an opcode byte with an execute state (R113). -/
def acceptOpcode (b : Byte) (a : Automaton) : Automaton :=
  { a with opcode := b, nParams := BitVec.ofNat 3 (arity b), paramCnt := 0, pc := a.pc + 1, st := .fetchParams }

/-- The three states of the hand-off protocol (R143). -/
def AutoState.isHandoff : AutoState → Bool
  | .loadFeatures => true
  | .storeFeatures => true
  | .run => true
  | .reset => false
  | .fetchOp => false
  | .fetchParams => false
  | .configureStates => false
  | .configureWeights => false
  | .debug => false

end Sys2Proof.Machine
end

