-- ==== Sys2Proof/Machine/Params.lean ====
section
/-! DEFINITION. The parameters of a build that 00_scope.md marks as parameters or derives from one (R13, R14, R16;
92_eei_decisions.md D16, D17). The machine's operations take a `Params`; `params` is the reference configuration that
`exec` and `step` use. -/

namespace Sys2Proof.Machine

/-- `NUM_ADDERS`, and the two parameters of the weight transfer that R14 keeps open. -/
structure Params where
  numAdders : Nat
  weightNodeBase : Nat
  itersW : Nat
  deriving DecidableEq, Repr

/-- `ceil(n / LINE_BYTES)`: the lines that hold `n` bytes (R14, R21). -/
def linesFor (n : Nat) : Nat := (n + Config.lineBytes - 1) / Config.lineBytes

/-- `NUM_MULTS = NUM_NODES - NUM_ADDERS` (R13). -/
def Params.numMults (P : Params) : Nat := Config.numNodes - P.numAdders

/-- `STATE_NODE_BASE` (R14). -/
def stateNodeBase : Nat := 0

/-- `ITERS_S = ceil(NUM_NODES / LINE_BYTES) = 16` (R14). -/
def itersS : Nat := linesFor Config.numNodes

/-- `DEBUG_LINES = ITERS_S + ITERS_W` (R16). -/
def Params.debugLines (P : Params) : Nat := itersS + P.itersW

/-- The weight base and count that the automaton's rules give a tree with `n` adders (R14). -/
def Params.ofAdders (n : Nat) : Params where
  numAdders := n
  weightNodeBase := n
  itersW := linesFor (Config.numNodes - n)

/-- The reference configuration: `NUM_ADDERS = 31`, so `WEIGHT_NODE_BASE = 31`, `ITERS_W = 8` (R13, R14; log 14). -/
def params : Params := Params.ofAdders 31

/-- The alternative under which the source assembler's weight layout round-trips: `WEIGHT_NODE_BASE = 28`,
`ITERS_W = 9` (R100, D16). -/
def assemblerParams : Params where
  numAdders := 31
  weightNodeBase := 28
  itersW := 9

/-- What a model that changes the parameters must check: every node address fits `NODE_ADDR_BITS = 6` (R130) and every
count fits `OFFSET_BITS = 5` (R18). -/
def Params.wf (P : Params) : Bool :=
  decide (P.numAdders ≤ Config.numNodes) &&
  decide (P.weightNodeBase + Config.lineBytes * P.itersW ≤ 64) &&
  decide (P.debugLines < 32)

end Sys2Proof.Machine
end

