-- ==== Sys2Proof/Machine/Ops.lean ====
section
/-! DEFINITION. The shared operations: the backing store (20_memory.md R53 to R58), one completed request to the adaptor
(R61 to R71), the fetch of instruction bytes (R85, R118), staging and ending an execution (40_automaton.md R113 to R115,
R121), and taking the decode fault, CORE's only exception: the reset action (41_control.md R126). -/

namespace Sys2Proof.Machine

/-- Whether a cell may stand in front of a memory: an existing byte address (R11), and a key below the next one. -/
def Memory.cellOk (c : Host.Cell) : Memory → Bool
  | [] => decide (c.1 < 2 ^ 26)
  | d :: _ => decide (c.1 < 2 ^ 26) && decide (c.1 < d.1)

/-- The canonical form: keys strictly rising. An unlisted address has no known byte, so no entry can equal what one
holds. -/
def Memory.wf : Memory → Bool
  | [] => true
  | c :: rest => Memory.cellOk c rest && Memory.wf rest

/-- The byte listed at a key, if one is. -/
def Memory.find : Memory → Nat → Option Byte
  | [], _ => none
  | (k, v) :: rest, a => if k = a then some v else Memory.find rest a

/-- What an unlisted byte of `M` reads as: the launch parameter `MEM_INIT`, a free value (R58: no rule assumes it is zero,
and no address faults). Assumption log 3. -/
def Memory.unlisted (a : Nat) : Byte := Config.memInit a

/-- The byte at a key. -/
def Memory.read (m : Memory) (a : Nat) : Byte := (m.find a).getD (Memory.unlisted a)

/-- Store the byte `v` at key `a`, keeping the canonical form. -/
def Memory.write : Memory → Nat → Byte → Memory
  | [], a, v => [(a, v)]
  | (k, w) :: rest, a, v =>
    if a < k then (a, v) :: (k, w) :: rest
    else if a = k then (a, v) :: rest
    else (k, w) :: Memory.write rest a v

/-- The key of byte `i` of line `l`: its byte address (R54). -/
def byteKey (l : LineAddr) (i : Nat) : Nat := 4 * l.toNat + i

/-- `M(l)` (R53). -/
def Memory.readLine (m : Memory) (l : LineAddr) : Line :=
  #v[m.read (byteKey l 0), m.read (byteKey l 1), m.read (byteKey l 2), m.read (byteKey l 3)]

/-- `M(l) <- v`: all four bytes (R57). -/
def Memory.writeLine (m : Memory) (l : LineAddr) (v : Line) : Memory :=
  (((m.write (byteKey l 0) v[0]).write (byteKey l 1) v[1]).write (byteKey l 2) v[2]).write (byteKey l 3) v[3]

/-- Several line writes, in order. -/
def Memory.writeLines (m : Memory) (ws : List LineWrite) : Memory :=
  ws.foldl (fun m w => m.writeLine w.line w.data) m

/-- `MemRead(b, 1)`, the byte of `M` at a byte address (R23, R54). -/
def memByte (m : Memory) (b : ByteAddr) : Byte := lineByte (m.readLine (lineOf b)) (selOf b)

/-- `hit`: only an idle adaptor hits, only on the cached line, and never for a bulk request (R63). -/
def Adaptor.hits (d : Adaptor) (l : LineAddr) (bulk : Bool) : Bool :=
  decide (d.phase = .idle) && d.cValid && decide (d.cTag = l) && !bulk

/-- The adaptor after the fetch of line `l` has brought `data` (R68). -/
def Adaptor.filled (l : LineAddr) (data : Line) : Adaptor where
  cValid := true
  cTag := l
  cData := data
  phase := .idle
  aLine := l

/-- A request for line `l` run to the cycle in which `byte_ready = 1`, whatever the memory's latency (R63 to R68, R70):
the line presented, and the state with the adaptor as that cycle leaves it. A hit changes nothing; a miss, and a fetch
already outstanding, end with `M(l)` cached. -/
def requestLine (l : LineAddr) (bulk : Bool) (s : State) : Line × State :=
  if s.adaptor.hits l bulk then (s.adaptor.cData, s)
  else (s.mem.readLine l, { s with adaptor := Adaptor.filled l (s.mem.readLine l) })

/-- The instruction byte at `pc` run to the cycle that accepts it, with `pc` past it (R113, R114, R118). -/
def fetchByte (s : State) : Byte × State :=
  let r := requestLine (lineOf s.auto.pc) false s
  (lineByte r.1 (selOf s.auto.pc), { r.2 with auto := { r.2.auto with pc := s.auto.pc + 1 } })

/-- `n` instruction bytes in `pc` order (R85, R118). -/
def fetchBytes : Nat → State → List Byte × State
  | 0, s => ([], s)
  | n + 1, s =>
    let r := fetchByte s
    let rs := fetchBytes n r.2
    (r.1 :: rs.1, rs.2)

/-- FETCH_PARAMS run over `n` operand bytes: each is fetched and accepted (R114). -/
def streamOperands : Nat → State → State
  | 0, s => s
  | n + 1, s =>
    let r := requestLine (lineOf s.auto.pc) false s
    streamOperands n
      { r.2 with auto := acceptOperand (lineByte r.1 (selOf s.auto.pc)) r.2.auto }

/-- Clear the cache valid bit (R72). -/
def clearCache (s : State) : State := { s with adaptor := { s.adaptor with cValid := false } }

/-- The reset action (R126): TAKING THE DECODE FAULT, `raise DecodeFault(op)` (R23, R160), and the effect of `Reset`.
Every automaton register is 0, control is at RESET with `pc = 0`, the cached line is invalid, and nothing is saved
(R156). There is no return from it but `start` (R161). -/
def resetAction (s : State) : State := clearCache { s with auto := Automaton.reset }

/-- What the fetch and dispatch of an instruction with a 24-bit field leave in the registers (R113 to R116): `addr`, the
operand counts and the execute state, with `offset` and `wr_wait` 0, as R115 finds them. -/
def stage (op : Opcode) (st : AutoState) (a : BitVec 24) (s : State) : State :=
  { s with auto := { s.auto with
      st := st
      opcode := op.code
      nParams := BitVec.ofNat 3 op.arity
      paramCnt := BitVec.ofNat 3 op.arity
      addr := a
      offset := 0
      wrWait := false } }

/-- The same for format FB, with `pbuf` and `lcount` (R88, R114). -/
def stageFeatures (op : Opcode) (st : AutoState) (pbuf lcount : Byte) (a : BitVec 24) (s : State) : State :=
  let s1 := stage op st a s
  { s1 with auto := { s1.auto with pbuf := pbuf, lcount := lcount } }

/-- The end cycle of a transfer or read-back: `offset <- 0; st <- FETCH_OP` (R132, R133, R148). -/
def endExecution (s : State) : State :=
  { s with auto := { s.auto with st := .fetchOp, offset := 0 } }

end Sys2Proof.Machine
end

