-- ==== Sys2Proof/Machine/Fanout.lean ====
section
/-! DEFINITION. The configuration fan-out: the four lanes (42_configuration.md R129 to R131), the multiplexer (R138,
R139), and the reference sink, the tree's node registers (R140). -/

namespace Sys2Proof.Machine

/-- One lane's outputs in one cycle (R46, R129). -/
structure Lane where
  /-- `cfg_en` -/
  en : Bool
  /-- `cfg_node`, `NODE_ADDR_BITS = 6` (R18). -/
  node : BitVec 6
  /-- `cfg_data` -/
  data : Byte
  /-- `cfg_wsel` -/
  wsel : Bool
  deriving DecidableEq, Repr

/-- What one node receives in one cycle (R46, R138). -/
structure NodeConfig where
  /-- `node_cfg_en` -/
  en : Bool
  /-- `node_cfg_data` -/
  data : Byte
  /-- `node_cfg_wsel` -/
  wsel : Bool
  deriving DecidableEq, Repr

/-- The default of a lane's outputs (R47). -/
def Lane.off : Lane := ⟨false, 0, 0, false⟩

/-- The default of a node's inputs (R47, R138). -/
def NodeConfig.off : NodeConfig := ⟨false, 0, false⟩

/-- All lanes undriven (R129). -/
def lanesOff : Vector Lane 4 := #v[Lane.off, Lane.off, Lane.off, Lane.off]

/-- `node_addr(i) = BASE + LINE_BYTES * offset + i`, as a natural number (R37, R130). -/
def nodeAddr (base offset i : Nat) : Nat := base + Config.lineBytes * offset + i

/-- Lane `i` in a cycle that receives a line (R130, R132, R133). -/
def driveLane (base offset : Nat) (wsel : Bool) (i : Nat) (data : Byte) : Lane :=
  ⟨true, BitVec.ofNat 6 (nodeAddr base offset i), data, wsel⟩

/-- The four lanes in a cycle that receives line `L`: every lane is enabled, the last line included (R131, R135). -/
def driveLanes (base offset : Nat) (wsel : Bool) (L : Line) : Vector Lane 4 :=
  #v[driveLane base offset wsel 0 L[0], driveLane base offset wsel 1 L[1],
     driveLane base offset wsel 2 L[2], driveLane base offset wsel 3 L[3]]

/-- The multiplexer at node `n`: the lowest enabled lane that addresses it, or nothing (R138, R139). -/
def muxNode (lanes : Vector Lane 4) (n : Nat) : NodeConfig :=
  match lanes.toList.find? (fun ln => ln.en && ln.node.toNat == n) with
  | some ln => ⟨true, ln.data, ln.wsel⟩
  | none => NodeConfig.off

/-- `f n b` at every position `n` of a list, counted from `k`. -/
def mapFrom (k : Nat) (f : Nat → Byte → Byte) : List Byte → List Byte
  | [] => []
  | b :: rest => f k b :: mapFrom (k + 1) f rest

theorem mapFrom_length (f : Nat → Byte → Byte) (l : List Byte) (k : Nat) : (mapFrom k f l).length = l.length := by
  induction l generalizing k with
  | nil => rfl
  | cons b rest ih => simp [mapFrom, ih]

/-- `f n b` at every node `n` of a node register array. -/
def mapNodes (f : Nat → Byte → Byte) (v : Vector Byte Config.numNodes) : Vector Byte Config.numNodes :=
  ⟨⟨mapFrom 0 f v.toArray.toList⟩, by simp [mapFrom_length]⟩

/-- `S[n]` after a cycle of the reference sink (R140). -/
def sinkState (lanes : Vector Lane 4) (n : Nat) (old : Byte) : Byte :=
  let c := muxNode lanes n
  if c.en && !c.wsel then c.data else old

/-- `W[n]` after a cycle of the reference sink (R140). -/
def sinkWeight (lanes : Vector Lane 4) (n : Nat) (old : Byte) : Byte :=
  let c := muxNode lanes n
  if c.en && c.wsel then c.data else old

/-- The node-level writes of a cycle, in node order (R122, R138). -/
def nodeWrites (lanes : Vector Lane 4) : List NodeWrite :=
  (List.range Config.numNodes).filterMap fun n =>
    let c := muxNode lanes n
    if c.en then some ⟨n, c.data, c.wsel⟩ else none

/-- The lanes reach the nodes: the sink takes the bytes (R140), and the writes are observed (R122). In a cycle with no
lane enabled nothing happens. -/
def sinkLanes (lanes : Vector Lane 4) (s : State) : State :=
  if lanes.toList.any Lane.en then
    { s with
      nodeState := mapNodes (sinkState lanes) s.nodeState
      nodeWeight := mapNodes (sinkWeight lanes) s.nodeWeight
      events := .nodeWrites (nodeWrites lanes) :: s.events }
  else s

end Sys2Proof.Machine
end

