-- ==== Sys2Proof/Machine/Configuration.lean ====
section
/-! DEFINITION. The bulk transfers: `ConfigureStates` and `ConfigureWeights` (42_configuration.md R132 to R137). -/

namespace Sys2Proof.Machine

/-- One line of a transfer: line `addr + offset` is read as a bulk request, its four bytes go to the nodes, and `offset`
counts it (R132 to R136). -/
def transferLine (base : Nat) (wsel : Bool) (s : State) : State :=
  let r := requestLine (lineAt s.auto.addr s.auto.offset) true s
  let s2 := sinkLanes (driveLanes base s.auto.offset.toNat wsel r.1) r.2
  { s2 with auto := { s2.auto with offset := s2.auto.offset + 1 } }

/-- `n` lines of a transfer, in order. -/
def transferLines (base : Nat) (wsel : Bool) : Nat → State → State
  | 0, s => s
  | n + 1, s => transferLines base wsel n (transferLine base wsel s)

/-- A transfer run from the line that `offset` names to its end (R132, R133). With `offset` past the count, which no run
reaches, no line is requested and nothing ever changes (R111; log 9). -/
def finishTransfer (base iters : Nat) (wsel : Bool) (s : State) : State :=
  if s.auto.offset.toNat ≤ iters then
    endExecution (transferLines base wsel (iters - s.auto.offset.toNat) s)
  else s

/-- CONFIGURE_STATES, from where it stands to its end (R132). -/
def finishConfigureStates (s : State) : State := finishTransfer stateNodeBase itersS false s

/-- CONFIGURE_WEIGHTS, from where it stands to its end, under parameters `P` (R133, R14). -/
def finishConfigureWeights (P : Params) (s : State) : State := finishTransfer P.weightNodeBase P.itersW true s

/-- `ConfigureStates <line>` (R132). -/
def execConfigureStates (line : LineAddr) (s : State) : Host.Outcome State Fault Refusal :=
  .next (finishConfigureStates (stage .configureStates .configureStates line s))

/-- `ConfigureWeights <line>` (R133). -/
def execConfigureWeights (line : LineAddr) (s : State) : Host.Outcome State Fault Refusal :=
  .next (finishConfigureWeights params (stage .configureWeights .configureWeights line s))

end Sys2Proof.Machine
end

