-- ==== Sys2Proof/Machine/Control.lean ====
section
/-! DEFINITION. The control family: `Reset` (41_control.md R125). -/

namespace Sys2Proof.Machine

/-- `Reset`: the reset action, in the cycle that decodes it (R125, R126). -/
def execReset (s : State) : Host.Outcome State Fault Refusal := .next (resetAction s)

end Sys2Proof.Machine
end

