-- ==== Sys2Proof/Machine/Debug.lean ====
section
/-! DEFINITION. `Debug`, the read-back of the node registers (44_debug.md R148 to R152). -/

namespace Sys2Proof.Machine

/-- A node register, or 0x00 where there is no such node (R149). -/
def nodeByte (v : Vector Byte Config.numNodes) (n : Nat) : Byte := if h : n < Config.numNodes then v[n] else 0

/-- `SNAP(k)[i]` (R149). -/
def snapByte (P : Params) (treeState treeWeight : Vector Byte Config.numNodes) (k i : Nat) : Byte :=
  if k < itersS then nodeByte treeState (stateNodeBase + Config.lineBytes * k + i)
  else nodeByte treeWeight (P.weightNodeBase + Config.lineBytes * (k - itersS) + i)

/-- `SNAP(k)`, the line written at iteration `k` (R149). -/
def snap (P : Params) (treeState treeWeight : Vector Byte Config.numNodes) (k : Nat) : Line :=
  #v[snapByte P treeState treeWeight k 0, snapByte P treeState treeWeight k 1,
     snapByte P treeState treeWeight k 2, snapByte P treeState treeWeight k 3]

/-- The write port accepts a line: the memory takes it and performs the write (R57, R76; log 6), and it is observed
(R122). -/
def acceptWrite (l : LineAddr) (v : Line) (s : State) : State :=
  { s with mem := s.mem.writeLine l v, events := .lineWrite l v :: s.events }

/-- DEBUG's line `offset` is accepted: `wr_wait <- 1` (R148). -/
def debugAccept (P : Params) (s : State) : State :=
  let s1 := acceptWrite (lineAt s.auto.addr s.auto.offset)
    (snap P s.nodeState s.nodeWeight s.auto.offset.toNat) s
  { s1 with auto := { s1.auto with wrWait := true } }

/-- DEBUG's accepted line is acknowledged: `wr_wait <- 0; offset <- offset + 1; c_valid <- 0` (R148, R151). -/
def debugAck (s : State) : State :=
  clearCache { s with auto := { s.auto with wrWait := false, offset := s.auto.offset + 1 } }

/-- `n` lines of DEBUG, in order, each accepted and acknowledged before the next (R150). -/
def debugLines (P : Params) : Nat → State → State
  | 0, s => s
  | n + 1, s => debugLines P n (debugAck (debugAccept P s))

/-- The lines DEBUG still has to acknowledge: `offset` counts up, modulo 2^5, to `DEBUG_LINES` (R148, R18). -/
def debugRemaining (P : Params) (offset : BitVec 5) : Nat := (BitVec.ofNat 5 P.debugLines - offset).toNat

/-- DEBUG, from where it stands to its end (R148, R159: the end test comes first). A line already accepted is only
acknowledged. -/
def finishDebug (P : Params) (s : State) : State :=
  let s1 := if s.auto.wrWait && decide (debugRemaining P s.auto.offset ≠ 0) then debugAck s else s
  endExecution (debugLines P (debugRemaining P s1.auto.offset) s1)

/-- `Debug <line>` (R148). -/
def execDebug (line : LineAddr) (s : State) : Host.Outcome State Fault Refusal :=
  .next (finishDebug params (stage .debug .debug line s))

end Sys2Proof.Machine
end

