-- ==== Sys2Proof/Machine/Handoff.lean ====
section
/-! DEFINITION. The hand-off instructions: `LoadFeatures`, `StoreFeatures` and `Run` (43_handoff.md R143 to R147). -/

namespace Sys2Proof.Machine

/-- The lines the dataflow core writes, by its own path, in the part still to come of a hand-off that is run to its end
(R143, R59; 93 I14: any value): the head of State's queue, or a free value where the queue is empty. Assumption log 5. -/
def dataflowWrites (s : State) : List LineWrite :=
  match s.handoffWrites with
  | ws :: _ => ws
  | [] => Config.handoffWrites s.handoffDraws

/-- The free values drawn once `dataflowWrites` has been used: one more where the queue is empty. -/
def drawsAfter (s : State) : Nat := if s.handoffWrites.isEmpty then s.handoffDraws + 1 else s.handoffDraws

/-- CORE presents a hand-off: it is observed, once, with its operands (R143, R48, R122). -/
def presentHandoff (s : State) : State :=
  if s.dfBusy then s
  else
    { s with
      dfBusy := true
      events := .handOff s.auto.opcode s.auto.addr s.auto.pbuf s.auto.lcount :: s.events }

/-- A hand-off run to the cycle in which `df_done = 1`: the dataflow core has finished its writes before it, and no register
changes but `st` (R143, R147). CORE's cache does not see the writes (R83, R175). -/
def finishHandoff (s : State) : State :=
  let s1 := presentHandoff s
  { s1 with
    auto := { s1.auto with st := .fetchOp }
    mem := s1.mem.writeLines (dataflowWrites s)
    handoffWrites := s1.handoffWrites.tail
    handoffDraws := drawsAfter s
    dfBusy := false }

/-- One whole hand-off, from the dispatch to `df_done` (R143). -/
def performHandoff (s : State) : State := finishHandoff { s with dfBusy := false }

/-- `LoadFeatures <pbuf>, <lcount>, <line>` (R144). -/
def execLoadFeatures (pbuf lcount : Byte) (line : LineAddr) (s : State) : Host.Outcome State Fault Refusal :=
  .next (performHandoff (stageFeatures .loadFeatures .loadFeatures pbuf lcount line s))

/-- `StoreFeatures <pbuf>, <lcount>, <line>` (R145). -/
def execStoreFeatures (pbuf lcount : Byte) (line : LineAddr) (s : State) : Host.Outcome State Fault Refusal :=
  .next (performHandoff (stageFeatures .storeFeatures .storeFeatures pbuf lcount line s))

/-- `Run <len>`: the length is handed over in `addr`, and `pbuf` and `lcount` keep their values (R146, R124). -/
def execRun (len : BitVec 24) (s : State) : Host.Outcome State Fault Refusal :=
  .next (performHandoff (stage .run .run len s))

end Sys2Proof.Machine
end

