-- ==== Sys2Proof/Machine/Dispatch.lean ====
section
/-! DEFINITION. One instruction: from the state that the fetch of its bytes leaves, to the next instruction boundary
(40_automaton.md R121). -/

namespace Sys2Proof.Machine

def exec (i : Instr) (s : State) : Host.Outcome State Fault Refusal :=
  match i with
  | .reset => Sys2Proof.Machine.execReset s
  | .configureStates line => Sys2Proof.Machine.execConfigureStates line s
  | .configureWeights line => Sys2Proof.Machine.execConfigureWeights line s
  | .loadFeatures pbuf lcount line => Sys2Proof.Machine.execLoadFeatures pbuf lcount line s
  | .storeFeatures pbuf lcount line => Sys2Proof.Machine.execStoreFeatures pbuf lcount line s
  | .run len => Sys2Proof.Machine.execRun len s
  | .debug line => Sys2Proof.Machine.execDebug line s

end Sys2Proof.Machine
end

