-- ==== Sys2Proof/Machine/Flags.lean ====
section
/-! DEFINITION. CORE has no condition codes and no flags (10_state.md R26). What it shows of itself is `status`, the
4-bit code of the automaton state (R27; 40_automaton.md R117), defined here. -/

namespace Sys2Proof.Machine

/-- `code(st)` (R27). -/
def AutoState.code : AutoState → BitVec 4
  | .reset => 0
  | .fetchOp => 1
  | .fetchParams => 2
  | .configureStates => 3
  | .configureWeights => 4
  | .loadFeatures => 5
  | .storeFeatures => 6
  | .run => 7
  | .debug => 8

/-- `status := code(st)`, in every cycle (R117). -/
def State.status (s : State) : BitVec 4 := s.auto.st.code

end Sys2Proof.Machine
end

