-- ==== Sys2Proof/Machine/Cycle.lean ====
section
/-! DEFINITION. One clock cycle of CORE as a function of its registers and its inputs (00_scope.md R6, R22;
40_automaton.md R109): the read request (R111), the adaptor (20_memory.md R62 to R74), the automaton's state rules (R112
to R116, 42_configuration.md R132, R133, 43_handoff.md R143, 44_debug.md R148), and the Mealy outputs (10_state.md R43 to
R48). Nothing here knows of `M`: the line that answers a read is an input. -/

namespace Sys2Proof.Machine

/-- CORE's inputs in one cycle (R43 to R45, R48, R49). -/
structure CoreInputs where
  /-- `rst` -/
  rst : Bool
  /-- `start` -/
  start : Bool
  /-- `mem_rd_ready` -/
  rdReady : Bool
  /-- `mem_rd_valid` -/
  rdValid : Bool
  /-- `mem_rd_data` -/
  rdData : Line
  /-- `mem_wr_ready` -/
  wrReady : Bool
  /-- `mem_wr_ack` -/
  wrAck : Bool
  /-- `df_done` -/
  dfDone : Bool
  /-- `tree_state[n]` -/
  treeState : Vector Byte Config.numNodes
  /-- `tree_weight[n]` -/
  treeWeight : Vector Byte Config.numNodes
  deriving DecidableEq, Repr

/-- CORE's outputs in one cycle (R43 to R48). -/
structure CoreOutputs where
  /-- `status` -/
  status : BitVec 4
  /-- `mem_rd_req` -/
  rdReq : Bool
  /-- `mem_rd_addr` -/
  rdAddr : LineAddr
  /-- `mem_wr_req` -/
  wrReq : Bool
  /-- `mem_wr_addr` -/
  wrAddr : LineAddr
  /-- `mem_wr_data` -/
  wrData : Line
  /-- `cfg_en[i]`, `cfg_node[i]`, `cfg_data[i]`, `cfg_wsel[i]` -/
  lanes : Vector Lane 4
  /-- `node_cfg_en[n]`, `node_cfg_data[n]`, `node_cfg_wsel[n]` -/
  nodes : Vector NodeConfig Config.numNodes
  /-- `df_valid` -/
  dfValid : Bool
  /-- `df_op` -/
  dfOp : Byte
  /-- `df_addr` -/
  dfAddr : BitVec 24
  /-- `df_pbuf` -/
  dfPbuf : Byte
  /-- `df_lcount` -/
  dfLcount : Byte
  deriving DecidableEq, Repr

/-- The automaton's request to the adaptor (R50). -/
structure Request where
  /-- `rd_req` -/
  req : Bool
  /-- `rd_baddr` -/
  baddr : ByteAddr
  /-- `rd_bulk` -/
  bulk : Bool
  deriving DecidableEq, Repr

/-- No request: `rd_baddr` and `rd_bulk` are 0 (R111). -/
def Request.quiet : Request := ⟨false, 0, false⟩

/-- A transfer's request, while lines are left (R111). -/
def transferRequest (iters : Nat) (a : Automaton) : Request :=
  if a.offset.toNat < iters then ⟨true, firstByteOf (lineAt a.addr a.offset), true⟩ else Request.quiet

/-- The read request, a function of the registers alone (R111). -/
def request (P : Params) (a : Automaton) : Request :=
  match a.st with
  | .fetchOp => ⟨true, a.pc, false⟩
  | .fetchParams => if a.paramCnt < a.nParams then ⟨true, a.pc, false⟩ else Request.quiet
  | .configureStates => transferRequest itersS a
  | .configureWeights => transferRequest P.itersW a
  | .reset => Request.quiet
  | .loadFeatures => Request.quiet
  | .storeFeatures => Request.quiet
  | .run => Request.quiet
  | .debug => Request.quiet

/-- One cycle of the adaptor: its next registers, and its answers to the automaton and to the read port. -/
structure AdaptorCycle where
  next : Adaptor
  /-- `byte_ready` -/
  byteReady : Bool
  /-- `rd_line` -/
  rdLine : Line
  /-- `mem_rd_req` -/
  rdReq : Bool
  /-- `mem_rd_addr` -/
  rdAddr : LineAddr
  deriving DecidableEq, Repr

/-- Hit, miss or no request, with the adaptor idle (R64, R65, R66). -/
def adaptorIdle (q : Request) (i : CoreInputs) (d : Adaptor) : AdaptorCycle :=
  let l := lineOf q.baddr
  if q.req then
    if d.hits l q.bulk then ⟨d, true, d.cData, false, 0⟩
    else ⟨{ d with aLine := l, phase := if i.rdReady then .wait else .issue }, false, d.cData, true, l⟩
  else ⟨d, true, d.cData, false, 0⟩

/-- The request is presented until the memory accepts it (R67). -/
def adaptorIssue (i : CoreInputs) (d : Adaptor) : AdaptorCycle :=
  ⟨{ d with phase := if i.rdReady then .wait else .issue }, false, d.cData, true, d.aLine⟩

/-- The line is awaited; in the cycle it arrives it is cached and passed straight through (R68). -/
def adaptorWait (q : Request) (i : CoreInputs) (d : Adaptor) : AdaptorCycle :=
  if i.rdValid then
    ⟨Adaptor.filled d.aLine i.rdData, !q.req || decide (lineOf q.baddr = d.aLine), i.rdData, false, 0⟩
  else ⟨d, false, d.cData, false, 0⟩

/-- The adaptor's cycle with `rst = 0` (R62, R69). -/
def adaptorCycle (q : Request) (i : CoreInputs) (d : Adaptor) : AdaptorCycle :=
  match d.phase with
  | .idle => adaptorIdle q i d
  | .issue => adaptorIssue i d
  | .wait => adaptorWait q i d

/-- One cycle of the automaton: its next registers, whether it clears the cache valid bit (R72 (b), (c)), and the outputs
its state rule assigns. -/
structure AutoCycle where
  next : Automaton
  clear : Bool
  lanes : Vector Lane 4
  wrReq : Bool
  wrAddr : LineAddr
  wrData : Line
  dfValid : Bool
  deriving DecidableEq, Repr

/-- A cycle that assigns no output (R47). -/
def AutoCycle.quiet (a : Automaton) : AutoCycle where
  next := a
  clear := false
  lanes := lanesOff
  wrReq := false
  wrAddr := 0
  wrData := #v[0, 0, 0, 0]
  dfValid := false

/-- FETCH_OP in the cycle its byte is ready: a recognised opcode goes on to FETCH_PARAMS, any other byte takes the reset
action (R113, R126). -/
def fetchOpCycle (b : Byte) (a : Automaton) : AutoCycle :=
  match execState b with
  | some _ => .quiet (acceptOpcode b a)
  | none => { AutoCycle.quiet Automaton.reset with clear := true }

/-- FETCH_PARAMS (R114, R115). `ready` is `rd_req = 1` and `byte_ready = 1` (R111). -/
def fetchParamsCycle (ready : Bool) (b : Byte) (a : Automaton) : AutoCycle :=
  if a.paramCnt < a.nParams then .quiet (if ready then acceptOperand b a else a)
  else if a.paramCnt = a.nParams then
    match execState a.opcode with
    | some st => .quiet { a with st := st }
    | none => .quiet a
  else .quiet a

/-- CONFIGURE_STATES and CONFIGURE_WEIGHTS (R132, R133): the end test comes first (R159). -/
def transferCycle (base iters : Nat) (wsel ready : Bool) (line : Line) (a : Automaton) : AutoCycle :=
  if a.offset.toNat = iters then .quiet { a with offset := 0, st := .fetchOp }
  else if ready then
    { AutoCycle.quiet { a with offset := a.offset + 1 } with lanes := driveLanes base a.offset.toNat wsel line }
  else .quiet a

/-- LOAD_FEATURES, STORE_FEATURES and RUN (R143). -/
def handoffCycle (dfDone : Bool) (a : Automaton) : AutoCycle :=
  { AutoCycle.quiet (if dfDone then { a with st := .fetchOp } else a) with dfValid := true }

/-- DEBUG (R148, R149): the end test comes first (R159). -/
def debugCycle (P : Params) (i : CoreInputs) (a : Automaton) : AutoCycle :=
  if a.offset.toNat = P.debugLines then .quiet { a with offset := 0, st := .fetchOp }
  else if a.wrWait then
    if i.wrAck then { AutoCycle.quiet { a with wrWait := false, offset := a.offset + 1 } with clear := true }
    else .quiet a
  else
    { AutoCycle.quiet (if i.wrReady then { a with wrWait := true } else a) with
      wrReq := true
      wrAddr := lineAt a.addr a.offset
      wrData := snap P i.treeState i.treeWeight a.offset.toNat }

/-- The rule of the current state (R109 step 4). -/
def automatonCycle (P : Params) (q : Request) (ac : AdaptorCycle) (i : CoreInputs) (a : Automaton) : AutoCycle :=
  let ready := q.req && ac.byteReady
  let b := lineByte ac.rdLine (selOf q.baddr)
  match a.st with
  | .reset => .quiet (if i.start then { a with st := .fetchOp } else a)
  | .fetchOp => if ready then fetchOpCycle b a else .quiet a
  | .fetchParams => fetchParamsCycle ready b a
  | .configureStates => transferCycle stateNodeBase itersS false ready ac.rdLine a
  | .configureWeights => transferCycle P.weightNodeBase P.itersW true ready ac.rdLine a
  | .loadFeatures => handoffCycle i.dfDone a
  | .storeFeatures => handoffCycle i.dfDone a
  | .run => handoffCycle i.dfDone a
  | .debug => debugCycle P i a

/-- CORE after one cycle, and its outputs in it. -/
structure CoreCycle where
  auto : Automaton
  adaptor : Adaptor
  out : CoreOutputs
  deriving DecidableEq, Repr

/-- The outputs of a cycle with `rst = 1`: every output with an effect is 0 (R110, R73); `status` and the `df_*` operands
show the registers as they still stand (R48, R117). -/
def rstOutputs (a : Automaton) : CoreOutputs where
  status := a.st.code
  rdReq := false
  rdAddr := 0
  wrReq := false
  wrAddr := 0
  wrData := #v[0, 0, 0, 0]
  lanes := lanesOff
  nodes := Vector.ofFn fun _ => NodeConfig.off
  dfValid := false
  dfOp := a.opcode
  dfAddr := a.addr
  dfPbuf := a.pbuf
  dfLcount := a.lcount

/-- One cycle of CORE (R109): `rst` first (R110, R159), then the request, the adaptor, the state rule, and the outputs. A
clear of the cache valid bit wins over a fill in the same cycle (R72). -/
def coreCycle (P : Params) (i : CoreInputs) (a : Automaton) (d : Adaptor) : CoreCycle :=
  if i.rst then ⟨Automaton.reset, Adaptor.reset, rstOutputs a⟩
  else
    let q := request P a
    let ac := adaptorCycle q i d
    let au := automatonCycle P q ac i a
    { auto := au.next
      adaptor := if au.clear then { ac.next with cValid := false } else ac.next
      out :=
        { status := a.st.code
          rdReq := ac.rdReq
          rdAddr := ac.rdAddr
          wrReq := au.wrReq
          wrAddr := au.wrAddr
          wrData := au.wrData
          lanes := au.lanes
          nodes := Vector.ofFn fun n => muxNode au.lanes n.val
          dfValid := au.dfValid
          dfOp := a.opcode
          dfAddr := a.addr
          dfPbuf := a.pbuf
          dfLcount := a.lcount } }

end Sys2Proof.Machine
end

