-- ==== Sys2Proof/Machine/System.lean ====
section
/-! DEFINITION. One clock cycle of the whole system (00_scope.md R7): CORE's cycle with the backing store (20_memory.md
R56, R57), the dataflow core's hand-offs (43_handoff.md R143), the reference sink (42_configuration.md R140) and the
host's writes (70_reset_and_hazards.md R174) around it, and the reference memory of R60. -/

namespace Sys2Proof.Machine

/-- CORE's inputs in a cycle: what the environment drives, the line `M(a_line)` for the outstanding read, as it stands at
the answer (R56), and the sink's registers (R140). -/
def coreInputs (inp : Inputs) (s : State) : CoreInputs where
  rst := inp.rst
  start := inp.start
  rdReady := inp.rdReady
  rdValid := inp.rdValid
  rdData := s.mem.readLine s.adaptor.aLine
  wrReady := inp.wrReady
  wrAck := inp.wrAck
  dfDone := inp.dfDone
  treeState := s.nodeState
  treeWeight := s.nodeWeight

/-- CORE's part of the cycle. -/
def coreCycleOf (inp : Inputs) (s : State) : CoreCycle := coreCycle params (coreInputs inp s) s.auto s.adaptor

/-- The write port: a line is accepted in a cycle with `mem_wr_req = 1` and `mem_wr_ready = 1` (R57). -/
def writePort (inp : Inputs) (out : CoreOutputs) (s : State) : State :=
  if out.wrReq && inp.wrReady then acceptWrite out.wrAddr out.wrData s else s

/-- The dataflow core: a hand-off is observed in its first cycle, and goes on until the cycle with `df_done = 1`, or until
`df_valid` falls. Its writes of the cycle reach `M` (R143). -/
def dataflowCore (inp : Inputs) (out : CoreOutputs) (s : State) : State :=
  let s1 := if out.dfValid then presentHandoff s else s
  { s1 with mem := s1.mem.writeLines inp.dfWrites, dfBusy := out.dfValid && !inp.dfDone }

/-- The host's writes (R174). -/
def hostPort (inp : Inputs) (s : State) : State := { s with mem := s.mem.writeLines inp.hostWrites }

/-- Whether the host writes `M` where it has no move (R59, R174; 93 I17): it may write only while `st = RESET` with the
adaptor idle, and it touches nothing else in a `rst` cycle and is finished before it asserts `start`. -/
def hostBreaksDuty (inp : Inputs) (s : State) : Bool :=
  !inp.hostWrites.isEmpty &&
    (decide (s.auto.st ≠ .reset) || decide (s.adaptor.phase ≠ .idle) || inp.rst || inp.start)

/-- Whether the dataflow core writes `M` where it has no move (R143): it may write only while `df_valid = 1`, which is in the
hand-off states without `rst`, and it finishes every write before the cycle with `df_done = 1`. -/
def dataflowBreaksDuty (inp : Inputs) (s : State) : Bool :=
  !inp.dfWrites.isEmpty && (!s.auto.st.isHandoff || inp.rst || inp.dfDone)

/-- Whether this cycle would dispatch an opcode that `EXEC` gives no state (R116). -/
def dispatchStuck (a : Automaton) : Bool :=
  decide (a.st = .fetchParams) && decide (a.paramCnt = a.nParams) && (execState a.opcode).isNone

/-- The environment's part of a cycle: it sees CORE's outputs and the registers CORE had in the cycle. -/
def environmentCycle (inp : Inputs) (out : CoreOutputs) (s : State) : State :=
  hostPort inp (dataflowCore inp out (writePort inp out (sinkLanes out.lanes s)))

/-- One clock cycle of the system (R109). Every register write takes effect at its end (R22). -/
def clock (inp : Inputs) (s : State) : Host.Outcome State Fault Refusal :=
  if hostBreaksDuty inp s then .refused .hostWriteOutsideReset
  else if dataflowBreaksDuty inp s then .refused .dataflowWriteOutsideHandoff
  else if dispatchStuck s.auto && !inp.rst then .fault .dispatchWithoutState
  else
    let c := coreCycleOf inp s
    .next { environmentCycle inp c.out s with auto := c.auto, adaptor := c.adaptor }

/-- The inputs with the writes left out that the host or the dataflow core has no move for: what a freely drawn cycle
drives. -/
def Inputs.admitted (inp : Inputs) (s : State) : Inputs :=
  { inp with
    dfWrites := if dataflowBreaksDuty inp s then [] else inp.dfWrites
    hostWrites := if hostBreaksDuty inp s then [] else inp.hostWrites }

/-- What the reference memory drives in state `s` (R60): `ready` in every cycle, `valid` and `ack` in exactly the cycle
after the acceptance. `done` is the dataflow core's `df_done`. -/
def referenceInputs (done : Bool) (s : State) : Inputs :=
  { Inputs.idle with
    rdReady := true
    rdValid := decide (s.adaptor.phase = .wait)
    wrReady := true
    wrAck := s.auto.wrWait
    dfDone := done }

/-- One clock cycle with the reference memory (R60). -/
def referenceClock (done : Bool) (s : State) : Host.Outcome State Fault Refusal := clock (referenceInputs done s) s

/-- `n` clock cycles with the reference memory, stopping at a fault or refusal. -/
def referenceClocks (done : Bool) : Nat → State → Host.Outcome State Fault Refusal
  | 0, s => .next s
  | n + 1, s =>
    match referenceClock done s with
    | .next t => referenceClocks done n t
    | .fault f => .fault f
    | .refused r => .refused r

end Sys2Proof.Machine
end

