-- ==== Sys2Proof/Machine/Fetch.lean ====
section
/-! DEFINITION. From any state to the next instruction boundary (40_automaton.md R121): the fetch of an instruction's
bytes and its execution, or what is left of one that has begun. This is the run under FAIRNESS, which State names
(`Thereafter.fair`): every wait on the memory or the dataflow core ends (their duties, 20_memory.md R56, R57,
43_handoff.md R143; 60_exceptions.md R158), no `rst` arrives, and no latency is seen. Also: where the next
instruction's bytes lie, for the host's `withFetchWord`. -/

namespace Sys2Proof.Machine

/-- Decode and execute the bytes of a whole instruction; bytes that are none take the decode fault (R121, R127). -/
def executeBytes (bytes : List Byte) (s : State) : Host.Outcome State Fault Refusal :=
  match decode bytes with
  | .ok (i, _) => exec i s
  | .error _ => .next (resetAction s)

/-- One instruction from FETCH_OP: the opcode byte, as many operand bytes as its arity says, and its execution (R85, R113
to R116). -/
def runInstruction (s : State) : Host.Outcome State Fault Refusal :=
  let first := fetchByte s
  let operands := fetchBytes (arity first.1) first.2
  executeBytes (first.1 :: operands.1) operands.2

/-- The rest of an instruction from FETCH_PARAMS: the operand bytes still to come, then the dispatch of what the staging
registers hold (R114 to R116). With `param_cnt` past `n_params`, which no run reaches, nothing ever changes (log 9). -/
def finishFetchParams (s : State) : Host.Outcome State Fault Refusal :=
  if s.auto.paramCnt ≤ s.auto.nParams then
    if (execState s.auto.opcode).isNone then .fault .dispatchWithoutState
    else
      let s1 := streamOperands (s.auto.nParams.toNat - s.auto.paramCnt.toNat) s
      executeBytes (stagedBytes s1.auto) s1
  else .next s

/-- The run to the next instruction boundary. In RESET it waits: only a `start` input ends that (R112, R166). -/
def runToBoundary (s : State) : Host.Outcome State Fault Refusal :=
  match s.auto.st with
  | .reset => .next s
  | .fetchOp => runInstruction s
  | .fetchParams => finishFetchParams s
  | .configureStates => .next (finishConfigureStates s)
  | .configureWeights => .next (finishConfigureWeights params s)
  | .loadFeatures => .next (finishHandoff s)
  | .storeFeatures => .next (finishHandoff s)
  | .run => .next (finishHandoff s)
  | .debug => .next (finishDebug params s)

/-- Bytes stored at consecutive byte addresses, modulo 2^26 (R85). -/
def storeBytes : List Byte → ByteAddr → Memory → Memory
  | [], _, m => m
  | b :: rest, a, m => storeBytes rest (a + 1) (m.write a.toNat b)

/-- The state with the bytes of an instruction stored at `pc`, CORE about to fetch them from `M`: in FETCH_OP, no fetch
outstanding, no line cached, no clock cycle scripted, and a fair environment. -/
def placeInstruction (bytes : List Byte) (s : State) : State :=
  { s with
    auto := { s.auto with st := .fetchOp }
    adaptor := { s.adaptor with cValid := false, phase := .idle }
    mem := storeBytes bytes s.auto.pc s.mem
    inputs := []
    thereafter := .fair }

end Sys2Proof.Machine
end

