-- ==== Sys2Proof/Machine/Step.lean ====
section
/-! DEFINITION. One step, and where the host puts an instruction for the next step. -/

namespace Sys2Proof.Machine

/-- One step (00_scope.md R6). Where the environment's inputs for the coming clock cycle are listed, or are steady or freely
drawn, the step is that clock cycle, and a wait lasts as long as its input is absent (60_exceptions.md R158). Under
fairness it runs to the next instruction boundary. Assumption log 1. -/
def step (s : State) : Host.Outcome State Fault Refusal :=
  match s.inputs with
  | inp :: rest => clock inp { s with inputs := rest }
  | [] =>
    match s.thereafter with
    | .fair => runToBoundary s
    | .steady inp => clock inp s
    | .drawn n => clock ((Config.drawnInputs n).admitted s) { s with thereafter := .drawn (n + 1) }

/-- The state in which the very next step fetches and runs the instruction whose low `nbits` bits are `w` (its other
bits, up to the longest instruction, zero). Assumption log 13. -/
def State.withFetchWord (s : State) (nbits w : Nat) : State :=
  placeInstruction (tableBytes 6 (w % 2 ^ nbits)) s

end Sys2Proof.Machine
end

