-- ==== Sys2Proof/WellFormed.lean ====
section
/-! DEFINITION. What may be ill formed. Of an instruction: nothing (30_encoding.md R94: no operand byte has a reserved
value, and the widths are in `Instr`'s types). Of what the HOST gives its image builder: the operations of R106, which
carry their payloads as lists and numbers; R103 and R104 say which of them the builder refuses. -/

namespace Sys2Proof

/-- One operation of the list the host's image builder takes (R106). Two of them carry data that becomes a payload of
the configuration region; the others are the instructions themselves (R108). -/
inductive Operation where
  | reset
  /-- The state codes of all nodes, in node order (R98). -/
  | configureStates (codes : List Byte)
  /-- The signed weights of the multipliers, in multiplier order (R99). -/
  | configureWeights (weights : List Int)
  | loadFeatures (pbuf lcount : Byte) (line : LineAddr)
  | storeFeatures (pbuf lcount : Byte) (line : LineAddr)
  | run (len : BitVec 24)
  | debug (line : LineAddr)
  /-- An operation value whose type is not one of the seven (R103, R154). -/
  | unrecognised (typeName : String)
  deriving DecidableEq, Repr

/-- A weight that has a byte encoding (R104: any other is refused, never wrapped or saturated). -/
def weightInRange (w : Int) : Bool := decide (-128 ≤ w) && decide (w ≤ 127)

/-- Whether the builder takes the operation for a tree with `numMults` multipliers: one code per node, one weight in
`[-128, 127]` per multiplier, and no operation outside the seven (R98, R99, R103, R104). That a payload of
another length is refused is DEDUCED: assumption log 19. -/
def Operation.wellFormed (numMults : Nat) : Operation → Bool
  | .configureStates codes => codes.length == Config.numNodes
  | .configureWeights weights => weights.length == numMults && weights.all weightInRange
  | .reset => true
  | .loadFeatures _ _ _ => true
  | .storeFeatures _ _ _ => true
  | .run _ => true
  | .debug _ => true
  | .unrecognised _ => false

end Sys2Proof
end

