-- ==== Sys2Proof/Machine/Image.lean ====
section
/-! DEFINITION. The host's side of the contract: the weight byte mapping (30_encoding.md R102), the payload layouts (R98
to R100), the image builder (R97, R101, R103, R104, R106; 60_exceptions.md R154, R155), and the boot sequence
(70_reset_and_hazards.md R173). CORE does none of it. -/

namespace Sys2Proof.Machine

/-- `enc8(w) = w mod 256` (R102). -/
def enc8 (w : Int) : Byte := BitVec.ofNat 8 (w % 256).toNat

/-- `dec8(b)`: `b` for `b ≤ 127`, `b - 256` for `b ≥ 128` (R102). -/
def dec8 (b : Byte) : Int := if b.toNat ≤ 127 then (b.toNat : Int) else (b.toNat : Int) - 256

/-- The list with zero bytes after it, up to `n` bytes. -/
def padTo (n : Nat) (bytes : List Byte) : List Byte := bytes ++ List.replicate (n - bytes.length) 0

/-- The bytes padded with zeros to the end of their last line (R99, R101). -/
def padToLine (bytes : List Byte) : List Byte := padTo (Config.lineBytes * linesFor bytes.length) bytes

/-- The state payload: the codes in node order, and one zero byte (R98). -/
def statePayload (codes : List Byte) : List Byte := codes ++ [0]

/-- The weight payload CORE requires with its default parameters: the weights first, in multiplier order (R99). -/
def weightPayload (weights : List Int) : List Byte := weights.map enc8

/-- The weight payload of the source's assembler, which CORE's default parameters do not round-trip (R100). -/
def assemblerWeightPayload (weights : List Int) : List Byte := [0, 0, 0] ++ weights.map enc8 ++ [0]

/-- An image under construction: the instruction bytes, and the configuration bytes, which fill whole lines. -/
structure Build where
  instrs : List Byte
  config : List Byte
  deriving DecidableEq, Repr

/-- The current configuration write offset, a line address (R101, R106). -/
def Build.line (b : Build) : LineAddr := BitVec.ofNat 24 (Config.instrLines + linesFor b.config.length)

/-- One instruction appended. -/
def Build.instr (i : Instr) (b : Build) : Build := { b with instrs := b.instrs ++ encode i }

/-- One payload appended, densely, on a line boundary (R101). -/
def Build.payload (bytes : List Byte) (b : Build) : Build := { b with config := b.config ++ padToLine bytes }

/-- What one operation expands to (R106, R108). R106 gives the weight payload for CORE's default parameters only; that it is
the layout of R99 for every target, the alternative 28 and 9 of R100 too, is a DESIGN CHOICE: assumption log 22. -/
def Build.add (b : Build) : Operation → Build
  | .reset => b.instr .reset
  | .configureStates codes => (b.instr (.configureStates b.line)).payload (statePayload codes)
  | .configureWeights weights => (b.instr (.configureWeights b.line)).payload (weightPayload weights)
  | .loadFeatures pbuf lcount line => b.instr (.loadFeatures pbuf lcount line)
  | .storeFeatures pbuf lcount line => b.instr (.storeFeatures pbuf lcount line)
  | .run len => b.instr (.run len)
  | .debug line => b.instr (.debug line)
  | .unrecognised _ => b

/-- All operations and the `Reset` terminator (R97, R106). -/
def build (ops : List Operation) : Build := (ops.foldl Build.add ⟨[], []⟩).instr .reset

/-- What the host's builder is configured for: the build it makes images of (R20, R103, R154). -/
structure Target where
  /-- The width of the address operand in bytes. -/
  addrBytes : Nat
  /-- The number of nodes of the tree. -/
  numNodes : Nat
  parameters : Params
  deriving DecidableEq, Repr

/-- The reference configuration. -/
def Target.reference : Target := ⟨Config.addrBytes, Config.numNodes, params⟩

/-- The preconditions the builder checks once, before any operation: the address width is 3 bytes, the tree has 63 nodes,
its adders are among them, and the node addresses and counts fit their widths (R103, R154, R130, R18). -/
def Target.supported (T : Target) : Bool :=
  decide (T.addrBytes = 3) && decide (T.numNodes = 63) && T.parameters.wf

/-- The program image: the two regions, each padded with zeros to its size (R97, R101, R12). The builder refuses a target
that is not supported (R154), an operation that is not well formed (R103, R104, R155; a payload of another length: log
19), and a program that does not fit its region (R101, R177). -/
def assemble (T : Target) (ops : List Operation) : Option (List Byte) :=
  let b := build ops
  let instrBytes := Config.instrLines * Config.lineBytes
  let configBytes := Config.configLines * Config.lineBytes
  if T.supported && ops.all (Operation.wellFormed T.parameters.numMults) && decide (b.instrs.length ≤ instrBytes) &&
      decide (b.config.length ≤ configBytes) then
    some (padTo instrBytes b.instrs ++ padTo configBytes b.config)
  else none

/-- A line seen as one 32-bit machine word: byte-select `i` is bits `8i+7:8i` (R55). Only a host that writes words needs
it. -/
def lineOfWord (w : BitVec 32) : Line :=
  #v[w.extractLsb' 0 8, w.extractLsb' 8 8, w.extractLsb' 16 8, w.extractLsb' 24 8]

/-- The line writes that load an image whose first byte is byte 0 of line `l` (R54, R173). A last line that is not whole
is not written. -/
def imageWrites (l : LineAddr) : List Byte → List LineWrite
  | b0 :: b1 :: b2 :: b3 :: rest => ⟨l, #v[b0, b1, b2, b3]⟩ :: imageWrites (l + 1) rest
  | _ => []

/-- The host's part of the boot sequence: one `rst` cycle, the image into lines 0 up, one `start` cycle (R173). -/
def bootInputs (image : List Byte) : List Inputs :=
  [{ Inputs.idle with rst := true },
   { Inputs.idle with hostWrites := imageWrites 0 image },
   { Inputs.idle with start := true }]

/-- The machine after reset with a host that boots it on an image. -/
def launch (image : List Byte) : State := { State.reset with inputs := bootInputs image }

end Sys2Proof.Machine
end

