-- ==== Sys2Proof/Safety.lean ====
section
/-! DEFINITION. What counts as a legal state and a safe run, in the terms the claims use. `Inv` is what every run from
reset keeps (40_automaton.md R116, R119, R120, R122; 10_state.md R35, R36); it rules out the states in which CORE's
rules have no transition. -/

namespace Sys2Proof.Machine

/-- The bound of `offset` in each state: the lines of the transfer or read-back, and 0 outside one (R35). -/
def offsetBound (P : Params) : AutoState → Nat
  | .configureStates => itersS
  | .configureWeights => P.itersW
  | .debug => P.debugLines
  | .reset => 0
  | .fetchOp => 0
  | .fetchParams => 0
  | .loadFeatures => 0
  | .storeFeatures => 0
  | .run => 0

/-- A state in which an instruction has been decoded and has not ended: its opcode has an execute state, and `n_params`
is its arity (R29, R30, R116). -/
abbrev Automaton.decoded (a : Automaton) : Prop :=
  (execState a.opcode).isSome = true ∧ a.nParams = BitVec.ofNat 3 (arity a.opcode)

/-- What holds of the automaton's registers. In RESET all are 0 (R122); while operands are fetched the opcode is decoded
and the count is within the arity (R116, R31); in an execute state the opcode is that state's and all operands are there
(R115); `offset` and `wr_wait` are 0 outside their states (R35, R36). -/
abbrev Automaton.Ok (P : Params) (a : Automaton) : Prop :=
  (a.st = .reset → a = Automaton.reset) ∧
  (a.st = .fetchParams → a.decoded ∧ a.paramCnt ≤ a.nParams) ∧
  (a.st ≠ .reset → a.st ≠ .fetchOp → a.st ≠ .fetchParams →
    execState a.opcode = some a.st ∧ a.decoded ∧ a.paramCnt = a.nParams) ∧
  a.offset.toNat ≤ offsetBound P a.st ∧
  (a.wrWait = true → a.st = .debug ∧ a.offset.toNat < P.debugLines)

/-- What holds of the adaptor: a fetch is outstanding only for the line the automaton is requesting (R68, R119), and in
RESET nothing is cached and nothing outstanding (R126, R168). -/
abbrev Adaptor.Ok (P : Params) (a : Automaton) (d : Adaptor) : Prop :=
  (d.phase ≠ .idle → (request P a).req = true ∧ lineOf (request P a).baddr = d.aLine) ∧
  (a.st = .reset → d.cValid = false ∧ d.phase = .idle)

/-- The legal states. -/
structure Inv (s : State) : Prop where
  auto : s.auto.Ok params
  adaptor : s.adaptor.Ok params s.auto
  mem : s.mem.wf = true
  busy : s.dfBusy = true → s.auto.st.isHandoff = true

/-- The cached line is the line of `M` it is tagged with (R38, R70). A hand-off may end this (R83, R175), and within DEBUG
it fails between a write and its acknowledge (R72). -/
abbrev Coherent (s : State) : Prop := s.adaptor.cValid = true → s.adaptor.cData = s.mem.readLine s.adaptor.cTag

/-- The inputs of a cycle in which the host and the dataflow core keep their duties (R174, R143): each writes `M` only where it
has a move. -/
abbrev Admitted (inp : Inputs) (s : State) : Prop := hostBreaksDuty inp s = false ∧ dataflowBreaksDuty inp s = false

/-- The automaton's registers as R126 and R168 list them after a reset, written out. -/
def zeroedAutomaton : Automaton := ⟨.reset, 0, 0, 0, 0, 0, 0, 0, 0, false⟩

/-- The adaptor's registers as R168 lists them after `rst`, written out. -/
def zeroedAdaptor : Adaptor := ⟨false, 0, #v[0, 0, 0, 0], .idle, 0⟩

/-- The adaptor's answer in a cycle (20_memory.md R62). -/
def adaptorAnswer (inp : Inputs) (s : State) : AdaptorCycle :=
  adaptorCycle (request params s.auto) (coreInputs inp s) s.adaptor

/-- Whether the automaton takes the byte or line it requests in this cycle: `rd_req = 1` and `byte_ready = 1` (R111). -/
def accepts (inp : Inputs) (s : State) : Bool := (request params s.auto).req && (adaptorAnswer inp s).byteReady

/-- `rd_byte` in a cycle (R69). -/
def acceptedByte (inp : Inputs) (s : State) : Byte :=
  lineByte (adaptorAnswer inp s).rdLine (selOf (request params s.auto).baddr)

/-- A read request that the adaptor cannot answer without the memory: a miss, or a fetch outstanding (R65, R67, R68). -/
abbrev Pending (s : State) : Prop :=
  (request params s.auto).req = true ∧
    s.adaptor.hits (lineOf (request params s.auto).baddr) (request params s.auto).bulk = false

/-- A wait of DEBUG, of a hand-off or of RESET whose awaited input is absent in the cycle (R158). -/
abbrev Unanswered (inp : Inputs) (s : State) : Prop :=
  (s.auto.st = .debug ∧ s.auto.offset.toNat ≠ 24 ∧ s.auto.wrWait = false ∧ inp.wrReady = false) ∨
  (s.auto.st = .debug ∧ s.auto.offset.toNat ≠ 24 ∧ s.auto.wrWait = true ∧ inp.wrAck = false) ∨
  (s.auto.st.isHandoff = true ∧ inp.dfDone = false) ∨
  (s.auto.st = .reset ∧ inp.start = false)

/-- CORE's outputs in a cycle. -/
def outputs (inp : Inputs) (s : State) : CoreOutputs := (coreCycleOf inp s).out

/-- The bytes of `M` at `n` consecutive byte addresses from `b`, modulo 2^26 (R85). -/
def memBytes (m : Memory) (b : ByteAddr) (n : Nat) : List Byte :=
  (List.range n).map fun k => memByte m (b + BitVec.ofNat 26 k)

/-- The instructions whose execution is a hand-off (43_handoff.md). -/
def isHandoffInstr : Instr → Bool
  | .loadFeatures _ _ _ => true
  | .storeFeatures _ _ _ => true
  | .run _ => true
  | .reset => false
  | .configureStates _ => false
  | .configureWeights _ => false
  | .debug _ => false

/-- The tree's node registers are as before. -/
abbrev SameNodes (s t : State) : Prop := t.nodeState = s.nodeState ∧ t.nodeWeight = s.nodeWeight

/-- The model's own queues and counter are as before: nothing of the environment's is used up. -/
abbrev SameQueues (s t : State) : Prop :=
  t.inputs = s.inputs ∧ t.thereafter = s.thereafter ∧ t.handoffWrites = s.handoffWrites ∧
    t.handoffDraws = s.handoffDraws

/-- The state in which the next hand-off that is run to its end writes `ws`. -/
def State.planWrites (ws : List LineWrite) (s : State) : State := { s with handoffWrites := ws :: s.handoffWrites }

/-- Byte `n` of the lines from `line` on, as `M` holds them (R98, R99: `M(A+k)[i] = P[4k+i]`, the lines modulo 2^24). -/
def payloadByte (m : Memory) (line : LineAddr) (n : Nat) : Byte :=
  m.read (byteKey (line + BitVec.ofNat 24 (n / 4)) (n % 4))

/-- Whether a key is a byte of one of the `n` lines from `line` on (modulo 2^24). -/
abbrev inLines (line : LineAddr) (n a : Nat) : Prop :=
  ∃ k < n, ∃ i < 4, a = byteKey (line + BitVec.ofNat 24 k) i

/-- A run of `n` steps that no fault stops. -/
def SafeRun (n : Nat) (s : State) : Prop := ∀ f, Host.Core.run Sys2Proof.core n s ≠ .fault f

end Sys2Proof.Machine
end

