-- ==== Sys2Proof/Certificates/Slice0/Obligations.lean ====
section
/-! DEFINITION. The statements for the provers. Each docstring names the rule of the spec it formalises. A statement
about every state also holds of states no run reaches, or takes `Inv` (Safety.lean) as a premise; `ResetStateIsLegal` and
`StepKeepsTheLegalStates` are about `Inv` itself. -/

open Sys2Proof Sys2Proof.Machine

/-! ## Reset, status -/

/-- R168, R170: the model's initial state. CORE's registers hold the values R168 lists; nothing is listed in memory, so
every byte reads as the free value `MEM_INIT` (R58); the node registers hold the free values `TREE_INIT` (R140); and the
model's own fields hold their logged values (log 2, 4, 5, 7, 11). -/
def Obligations.ResetStateHoldsTheResetValues : Prop :=
  State.reset.auto = zeroedAutomaton ∧
  State.reset.adaptor = zeroedAdaptor ∧
  State.reset.mem = [] ∧ (∀ a, State.reset.mem.read a = Config.memInit a) ∧
  (∀ (n : Nat) (h : n < Config.numNodes), State.reset.nodeState[n] = Config.treeInitState n ∧
    State.reset.nodeWeight[n] = Config.treeInitWeight n) ∧
  State.reset.inputs = [] ∧ State.reset.thereafter = .fair ∧ State.reset.handoffWrites = [] ∧
  State.reset.handoffDraws = 0 ∧ State.reset.dfBusy = false ∧ State.reset.events = []

/-- R168, R110: a cycle with `rst = 1`, in any state and with any other inputs (no one writes `M` in it, R174, R143),
gives every CORE register its reset value, drives every output with an effect 0, and shows the old state on `status`.
`M` and the node registers are not reset. -/
def Obligations.RstCycleResetsEveryCoreRegister : Prop :=
  ∀ (inp : Inputs) (s : State), inp.rst = true → Admitted inp s →
    ∃ t, clock inp s = .next t ∧
      t.auto = zeroedAutomaton ∧
      t.adaptor = zeroedAdaptor ∧
      t.mem = s.mem ∧ SameNodes s t ∧ SameQueues s t ∧ t.events = s.events ∧
      (outputs inp s).status = s.auto.st.code ∧ (outputs inp s).rdReq = false ∧
      (outputs inp s).wrReq = false ∧ (outputs inp s).dfValid = false ∧
      (∀ (i : Nat) (h : i < 4), ((outputs inp s).lanes[i]).en = false) ∧
      (∀ (n : Nat) (h : n < Config.numNodes), ((outputs inp s).nodes[n]).en = false)

/-- R27, R117: in every cycle `status` is the code of the state, the nine codes are those of R27's table, and no two
states share one. -/
def Obligations.StatusIsTheStateCode : Prop :=
  (∀ (inp : Inputs) (s : State), (outputs inp s).status = s.auto.st.code) ∧
  AutoState.code .reset = 0 ∧ AutoState.code .fetchOp = 1 ∧ AutoState.code .fetchParams = 2 ∧
  AutoState.code .configureStates = 3 ∧ AutoState.code .configureWeights = 4 ∧ AutoState.code .loadFeatures = 5 ∧
  AutoState.code .storeFeatures = 6 ∧ AutoState.code .run = 7 ∧ AutoState.code .debug = 8 ∧
  (∀ x y : AutoState, x.code = y.code → x = y)

/-! ## Encoding -/

/-- R85 to R91: the decoder reads back every instruction from its encoding, with every operand at every value, whatever
bytes follow. -/
def Obligations.DecodeOfEncodeIsTheInstruction : Prop :=
  ∀ (i : Instr) (rest : List Byte), decode (encode i ++ rest) = .ok (i, rest)

/-- R92, R94, R96: each byte sequence has one meaning. What decodes to an instruction is exactly its encoding, and the
rest. -/
def Obligations.DecodedBytesAreTheEncoding : Prop :=
  ∀ (bytes : List Byte) (i : Instr) (rest : List Byte), decode bytes = .ok (i, rest) → bytes = encode i ++ rest

/-- R93: 0x00 and 0x08 to 0xFF are illegal opcodes, refused by name, and no other byte is. -/
def Obligations.IllegalOpcodesAreTheOtherBytes : Prop :=
  ∀ (b : Byte) (rest : List Byte),
    decode (b :: rest) = .error (.unknownOpcode b) ↔ (b.toNat = 0 ∨ 8 ≤ b.toNat)

/-- R95: the first byte decides the length: 1 byte for `Reset`, 4 for format FA, 6 for format FB, and an illegal byte has
no operand. -/
def Obligations.FirstByteDecidesTheLength : Prop :=
  (∀ i : Instr, ∃ (b : Byte) (operands : List Byte), encode i = b :: operands ∧ operands.length = arity b) ∧
  (∀ b : Byte, arity b =
    if b.toNat = 2 ∨ b.toNat = 3 ∨ b.toNat = 6 ∨ b.toNat = 7 then 3
    else if b.toNat = 4 ∨ b.toNat = 5 then 5 else 0)

/-- R86 to R88, R105: words written out from the spec's encodings decode to the instructions they stand for (95 section
2.2 and the examples of R132, R133, R144 to R148). -/
def Obligations.SpecEncodingsDecode : Prop :=
  decode [0x01] = .ok (.reset, []) ∧
  decode [0x02, 0x80, 0x00, 0x00] = .ok (.configureStates 128, []) ∧
  decode [0x03, 0x90, 0x00, 0x00] = .ok (.configureWeights 144, []) ∧
  decode [0x04, 0x00, 0x01, 0x00, 0x02, 0x05] = .ok (.loadFeatures 2 5 256, []) ∧
  decode [0x05, 0x00, 0x02, 0x00, 0x01, 0x03] = .ok (.storeFeatures 1 3 512, []) ∧
  decode [0x06, 0xFF, 0x00, 0x00] = .ok (.run 255, []) ∧
  decode [0x07, 0xC8, 0x00, 0x00] = .ok (.debug 200, []) ∧
  decode [0x02, 0x01, 0x02, 0x03] = .ok (.configureStates 0x030201, [])

/-- The decoder reads every instruction from the number that spec/opcode_table.json makes of its bytes. -/
def Obligations.TableWordDecodesToTheInstruction : Prop :=
  ∀ i : Instr, decodeTableWord (8 * (encode i).length) (tableWord (encode i)) = some i

/-! ## A step -/

/-- R85, R113 to R116, R121: where no clock cycle is scripted, the environment is FAIR and CORE is in FETCH_OP, and the
bytes presented from `pc` on decode to an instruction, the step is that instruction's execution from the state that the
fetch of its bytes leaves. That state differs from the one before in `pc`, past the instruction, and in the adaptor. In
every other environment the step is one clock cycle: the scripted one, the steady one, or a freely drawn one (the model's
two grains of step: log 1, 2). -/
def Obligations.StepRunsTheDecodedInstruction : Prop :=
  (∀ (s : State) (i : Instr) (rest : List Byte), s.inputs = [] → s.thereafter = .fair → s.auto.st = .fetchOp →
    decode (fetchBytes 6 s).1 = .ok (i, rest) →
    step s = exec i (fetchBytes (encode i).length s).2 ∧
    (fetchBytes (encode i).length s).2 =
      { s with
        auto := { s.auto with pc := s.auto.pc + BitVec.ofNat 26 (encode i).length }
        adaptor := (fetchBytes (encode i).length s).2.adaptor }) ∧
  (∀ (s : State) (inp : Inputs) (later : List Inputs), s.inputs = inp :: later →
    step s = clock inp { s with inputs := later }) ∧
  (∀ (s : State) (inp : Inputs), s.inputs = [] → s.thereafter = .steady inp → step s = clock inp s) ∧
  (∀ (s : State) (n : Nat), s.inputs = [] → s.thereafter = .drawn n →
    step s = clock ((Config.drawnInputs n).admitted s) { s with thereafter := .drawn (n + 1) } ∧
    Admitted ((Config.drawnInputs n).admitted s) s)

/-- R127, R160: where, under fairness, the byte presented at `pc` is an unknown opcode, the step takes the reset action:
every automaton register is 0, the cache is invalid, and no other byte is fetched; `M`, the nodes and the observed results
are as before. -/
def Obligations.StepOnUnknownOpcodeTakesTheResetAction : Prop :=
  ∀ (s : State), s.inputs = [] → s.thereafter = .fair → s.auto.st = .fetchOp →
    ((fetchByte s).1.toNat = 0 ∨ 8 ≤ (fetchByte s).1.toNat) →
    ∃ t, step s = .next t ∧
      t.auto = zeroedAutomaton ∧
      t.adaptor = { (fetchByte s).2.adaptor with cValid := false } ∧
      t.mem = s.mem ∧ SameNodes s t ∧ SameQueues s t ∧ t.events = s.events

/-- R118, R54, R70: where the cache agrees with `M`, the bytes presented are those of `M` at `pc`, `pc + 1`, and so on,
modulo 2^26; afterwards the cache still agrees with `M`, and, where a byte was fetched, it holds the line of the last
one. -/
def Obligations.FetchPresentsTheBytesOfMemory : Prop :=
  ∀ (s : State) (n : Nat), Coherent s →
    (fetchBytes n s).1 = memBytes s.mem s.auto.pc n ∧
    Coherent (fetchBytes n s).2 ∧
    (fetchBytes (n + 1) s).2.adaptor.cValid = true ∧
    (fetchBytes (n + 1) s).2.adaptor.phase = .idle ∧
    (fetchBytes (n + 1) s).2.adaptor.cTag = lineOf (s.auto.pc + BitVec.ofNat 26 n)

/-- R83, R175: a byte of the cached line is presented as it was fetched, whatever `M` now holds, and the adaptor does not
change. -/
def Obligations.CachedLineIsPresentedAsFetched : Prop :=
  ∀ (s : State), s.adaptor.phase = .idle → s.adaptor.cValid = true → s.adaptor.cTag = lineOf s.auto.pc →
    (fetchByte s).1 = lineByte s.adaptor.cData (selOf s.auto.pc) ∧ (fetchByte s).2.adaptor = s.adaptor

/-- The state the host's `withFetchWord` makes runs exactly the instruction whose word it is given, from the state that
the fetch leaves (log 13). -/
def Obligations.PlacedWordIsTheNextInstruction : Prop :=
  ∀ (s : State) (i : Instr), ∃ u,
      step (s.withFetchWord (8 * (encode i).length) (tableWord (encode i))) = exec i u ∧
      u.auto = { s.auto with st := .fetchOp, pc := s.auto.pc + BitVec.ofNat 26 (encode i).length } ∧
      u.mem = (s.withFetchWord (8 * (encode i).length) (tableWord (encode i))).mem ∧ SameNodes s u ∧
      u.inputs = [] ∧ u.thereafter = .fair ∧ u.handoffWrites = s.handoffWrites ∧
      u.handoffDraws = s.handoffDraws ∧
      u.dfBusy = s.dfBusy ∧ u.events = s.events

/-! ## The instructions: completion, result, frame -/

/-- R125, R126, R128: `Reset` completes in every state with every automaton register 0 and the cache invalid; the rest of
the adaptor, `M`, the nodes and the observed results are as before. -/
def Obligations.ResetZeroesTheAutomaton : Prop :=
  ∀ (s : State), ∃ t, exec .reset s = .next t ∧
    t.auto = zeroedAutomaton ∧
    t.adaptor = { s.adaptor with cValid := false } ∧
    t.mem = s.mem ∧ SameNodes s t ∧ SameQueues s t ∧ t.dfBusy = s.dfBusy ∧ t.events = s.events

/-- R132, R135, R139: `ConfigureStates <line>` completes in every state. Node `n` holds byte `n` of the payload as its
state code, byte 63 reaches no node, and no weight changes. `addr`, the opcode and the counts are the instruction's;
`pc`, `pbuf` and `lcount` are kept (R124); `M` is as before; the last line read is cached (R68). -/
def Obligations.ConfigureStatesGivesEveryNodeItsCode : Prop :=
  ∀ (line : LineAddr) (s : State), ∃ t, exec (.configureStates line) s = .next t ∧
    (∀ (n : Nat) (h : n < Config.numNodes), t.nodeState[n] = payloadByte s.mem line n) ∧
    t.nodeWeight = s.nodeWeight ∧
    t.auto = { s.auto with
        st := .fetchOp
        opcode := 0x02
        nParams := 3
        paramCnt := 3
        addr := line
        offset := 0
        wrWait := false } ∧
    t.adaptor =
      { cValid := true
        cTag := line + 15
        cData := s.mem.readLine (line + 15)
        phase := .idle
        aLine := line + 15 } ∧
    t.mem = s.mem ∧ SameQueues s t ∧ t.dfBusy = s.dfBusy

/-- R133: `ConfigureWeights <line>` completes in every state. Node `31 + j` holds byte `j` of the payload as its weight,
for `j < 32`; no adder's weight and no state code changes. -/
def Obligations.ConfigureWeightsGivesEveryMultiplierItsWeight : Prop :=
  ∀ (line : LineAddr) (s : State), ∃ t, exec (.configureWeights line) s = .next t ∧
    (∀ (n : Nat) (h : n < Config.numNodes),
      t.nodeWeight[n] = if 31 ≤ n then payloadByte s.mem line (n - 31) else s.nodeWeight[n]) ∧
    t.nodeState = s.nodeState ∧
    t.auto = { s.auto with
        st := .fetchOp
        opcode := 0x03
        nParams := 3
        paramCnt := 3
        addr := line
        offset := 0
        wrWait := false } ∧
    t.adaptor =
      { cValid := true
        cTag := line + 7
        cData := s.mem.readLine (line + 7)
        phase := .idle
        aLine := line + 7 } ∧
    t.mem = s.mem ∧ SameQueues s t ∧ t.dfBusy = s.dfBusy

/-- R121, R122: the node writes of a transfer, in order, one cycle per line: line `k` of `ConfigureStates` sends bytes
`4k` to `4k+3` to the nodes of those numbers (node 63 does not exist) with weight-select 0, and line `k` of
`ConfigureWeights` sends them to nodes `31 + 4k` to `34 + 4k` with weight-select 1. The list is newest first (log 11). -/
def Obligations.TransfersWriteTheNodesInOrder : Prop :=
  ∀ (line : LineAddr) (s : State),
    (∃ t, exec (.configureStates line) s = .next t ∧
      t.events = ((List.range 16).map fun k => Event.nodeWrites
        (((List.range 4).filter fun i => decide (4 * k + i < 63)).map fun i =>
          ⟨4 * k + i, payloadByte s.mem line (4 * k + i), false⟩)).reverse ++ s.events) ∧
    (∃ t, exec (.configureWeights line) s = .next t ∧
      t.events = ((List.range 8).map fun k => Event.nodeWrites
        ((List.range 4).map fun i =>
          ⟨31 + 4 * k + i, payloadByte s.mem line (4 * k + i), true⟩)).reverse ++ s.events)

/-- R144, R145, R143, R147, R88: `LoadFeatures` and `StoreFeatures` complete in every state. One hand-off of the opcode
and the three operands is observed; no register changes but the staging registers, the opcode, the counts and `st`; the
cache and the nodes are as before. The dataflow core's own line writes, which the spec leaves open (93 I14; log 5), are
the only change of `M`. The record of the hand-off is the model's own (log 11). -/
def Obligations.FeatureTransfersHandOffTheirOperands : Prop :=
  ∀ (pbuf lcount : Byte) (line : LineAddr) (s : State),
    (∃ t, exec (.loadFeatures pbuf lcount line) s = .next t ∧
      t.auto = { s.auto with
          st := .fetchOp
          opcode := 0x04
          nParams := 5
          paramCnt := 5
          addr := line
          pbuf := pbuf
          lcount := lcount
          offset := 0
          wrWait := false } ∧
      t.adaptor = s.adaptor ∧ SameNodes s t ∧ t.events = .handOff 0x04 line pbuf lcount :: s.events ∧
      t.mem = s.mem.writeLines (dataflowWrites s) ∧
      (∀ a, (∀ w ∈ dataflowWrites s, ∀ i < 4, a ≠ byteKey w.line i) → t.mem.read a = s.mem.read a) ∧
      t.inputs = s.inputs ∧ t.thereafter = s.thereafter ∧ t.handoffWrites = s.handoffWrites.tail ∧
      t.handoffDraws = drawsAfter s ∧
      t.dfBusy = false) ∧
    (∃ t, exec (.storeFeatures pbuf lcount line) s = .next t ∧
      t.auto = { s.auto with
          st := .fetchOp
          opcode := 0x05
          nParams := 5
          paramCnt := 5
          addr := line
          pbuf := pbuf
          lcount := lcount
          offset := 0
          wrWait := false } ∧
      t.adaptor = s.adaptor ∧ SameNodes s t ∧ t.events = .handOff 0x05 line pbuf lcount :: s.events ∧
      t.mem = s.mem.writeLines (dataflowWrites s) ∧
      (∀ a, (∀ w ∈ dataflowWrites s, ∀ i < 4, a ≠ byteKey w.line i) → t.mem.read a = s.mem.read a) ∧
      t.inputs = s.inputs ∧ t.thereafter = s.thereafter ∧ t.handoffWrites = s.handoffWrites.tail ∧
      t.handoffDraws = drawsAfter s ∧
      t.dfBusy = false)

/-- R146, R90, R124: `Run <len>` completes in every state. The length is handed over in `addr`, with `pbuf` and `lcount`
as the last feature transfer left them. The dataflow core's writes are log 5, the record of the hand-off log 11. -/
def Obligations.RunHandsOffItsLength : Prop :=
  ∀ (len : BitVec 24) (s : State), ∃ t, exec (.run len) s = .next t ∧
    t.auto = { s.auto with
        st := .fetchOp
        opcode := 0x06
        nParams := 3
        paramCnt := 3
        addr := len
        offset := 0
        wrWait := false } ∧
    t.adaptor = s.adaptor ∧ SameNodes s t ∧
    t.events = .handOff 0x06 len s.auto.pbuf s.auto.lcount :: s.events ∧
    t.mem = s.mem.writeLines (dataflowWrites s) ∧
    (∀ a, (∀ w ∈ dataflowWrites s, ∀ i < 4, a ≠ byteKey w.line i) → t.mem.read a = s.mem.read a) ∧
    t.inputs = s.inputs ∧ t.thereafter = s.thereafter ∧ t.handoffWrites = s.handoffWrites.tail ∧
    t.handoffDraws = drawsAfter s ∧
    t.dfBusy = false

/-- R148, R149, R151: `Debug <line>` completes in every state. Line `line + k`, modulo 2^24, holds `SNAP(k)` for `k < 24`,
and every byte outside those lines is as before. The node registers are as before, the cache is invalid, and the 24 line
writes are observed in order (the record is the model's: log 11). -/
def Obligations.DebugWritesTheSnapshot : Prop :=
  ∀ (line : LineAddr) (s : State), ∃ t, exec (.debug line) s = .next t ∧
    (∀ k < 24, t.mem.readLine (line + BitVec.ofNat 24 k) = snap params s.nodeState s.nodeWeight k) ∧
    (∀ a, ¬ inLines line 24 a → t.mem.read a = s.mem.read a) ∧
    (s.mem.wf = true → t.mem.wf = true) ∧ SameNodes s t ∧
    t.auto = { s.auto with
        st := .fetchOp
        opcode := 0x07
        nParams := 3
        paramCnt := 3
        addr := line
        offset := 0
        wrWait := false } ∧
    t.adaptor = { s.adaptor with cValid := false } ∧
    t.events = ((List.range 24).map fun k => Event.lineWrite (line + BitVec.ofNat 24 k)
      (snap params s.nodeState s.nodeWeight k)).reverse ++ s.events ∧
    SameQueues s t ∧ t.dfBusy = s.dfBusy

/-- R149: the snapshot's layout. Lines 0 to 15 are the state codes of nodes 0 to 62 and a zero byte; lines 16 to 23 are
the weights of nodes 31 to 62. -/
def Obligations.SnapshotIsThePayloadLayout : Prop :=
  ∀ (S W : Vector Byte Config.numNodes) (k i : Nat) (hi : i < 4),
    (k < 16 → (h : 4 * k + i < Config.numNodes) → (snap params S W k)[i] = S[4 * k + i]) ∧
    (k = 15 → i = 3 → (snap params S W k)[i] = 0) ∧
    (16 ≤ k → k < 24 → (h : 31 + 4 * (k - 16) + i < Config.numNodes) →
      (snap params S W k)[i] = W[31 + 4 * (k - 16) + i])

/-- R149 (derived there from R98, R99, R142): the snapshot that `Debug A` writes is loaded back by `ConfigureStates A` and
`ConfigureWeights A+16`, from any later state whose memory still holds it: every state code and every multiplier's
weight is restored. -/
def Obligations.SnapshotReloads : Prop :=
  ∀ (line : LineAddr) (s t u : State), exec (.debug line) s = .next t → u.mem = t.mem →
    (∃ v, exec (.configureStates line) u = .next v ∧ v.nodeState = s.nodeState) ∧
    (∃ v, exec (.configureWeights (line + 16)) u = .next v ∧
      ∀ (n : Nat) (h : n < Config.numNodes), 31 ≤ n → v.nodeWeight[n] = s.nodeWeight[n])

/-- R142: the round trip of the state codes. Where the payload lines hold the layout of R98 for 63 codes,
`ConfigureStates` leaves `S[n] = c_n` for every node and changes no weight. -/
def Obligations.StateCodesRoundTrip : Prop :=
  ∀ (line : LineAddr) (s : State) (codes : List Byte) (hl : codes.length = Config.numNodes),
    (∀ (n : Nat) (h : n < (statePayload codes).length), payloadByte s.mem line n = (statePayload codes)[n]) →
    ∃ t, exec (.configureStates line) s = .next t ∧
      (∀ (n : Nat) (h : n < Config.numNodes), t.nodeState[n] = codes[n]) ∧ t.nodeWeight = s.nodeWeight

/-- R142, R141: the round trip of the weights. Where the payload lines hold the layout of R99 for 32 weights in
`[-128, 127]`, `ConfigureWeights` leaves `dec8(W[31 + j]) = w_j`, and changes no state code and no adder's weight. -/
def Obligations.WeightsRoundTrip : Prop :=
  ∀ (line : LineAddr) (s : State) (weights : List Int) (hl : weights.length = 32),
    (∀ w ∈ weights, weightInRange w = true) →
    (∀ (n : Nat) (h : n < (weightPayload weights).length), payloadByte s.mem line n = (weightPayload weights)[n]) →
    ∃ t, exec (.configureWeights line) s = .next t ∧
      (∀ (j : Nat) (h : j < 32), dec8 (t.nodeWeight[31 + j]'(by show 31 + j < 63; omega)) = weights[j]) ∧
      (∀ (n : Nat) (h : n < Config.numNodes), n < 31 → t.nodeWeight[n] = s.nodeWeight[n]) ∧ t.nodeState = s.nodeState

/-- R102: `enc8` and `dec8` are the two's-complement mapping, and inverse to each other over the whole signed range and
over all bytes. -/
def Obligations.WeightCodecIsABijection : Prop :=
  (∀ w : Int, weightInRange w = true → dec8 (enc8 w) = w) ∧ (∀ b : Byte, enc8 (dec8 b) = b) ∧
  (∀ w : Int, ((enc8 w).toNat : Int) = w % 256) ∧
  (∀ w : Int, 0 ≤ w → w ≤ 127 → ((enc8 w).toNat : Int) = w) ∧
  (∀ w : Int, -128 ≤ w → w ≤ -1 → ((enc8 w).toNat : Int) = w + 256) ∧
  (∀ b : Byte, b.toNat ≤ 127 → dec8 b = b.toNat) ∧
  (∀ b : Byte, 128 ≤ b.toNat → dec8 b = b.toNat - 256)

/-- R100: the source assembler's weight layout under the default parameters. Nodes 31 to 33 receive 0, node `34 + m`
receives `enc8(w_m)` for `m ≤ 28`, and the last three weights reach no node. -/
def Obligations.AssemblerLayoutShiftsTheWeights : Prop :=
  ∀ (line : LineAddr) (s : State) (weights : List Int) (hl : weights.length = 32),
    (∀ (n : Nat) (h : n < (assemblerWeightPayload weights).length),
      payloadByte s.mem line n = (assemblerWeightPayload weights)[n]) →
    ∃ t, exec (.configureWeights line) s = .next t ∧
      t.nodeWeight[31] = 0 ∧ t.nodeWeight[32] = 0 ∧ t.nodeWeight[33] = 0 ∧
      (∀ (m : Nat) (h : m < 29), t.nodeWeight[34 + m]'(by show 34 + m < 63; omega) = enc8 weights[m])

/-- R100, D16: the source assembler's weight layout round-trips under the alternative parameters: after the transfer with
`WEIGHT_NODE_BASE = 28` and `ITERS_W = 9`, node `31 + j` holds `enc8(w_j)`, and nodes 28 to 30 hold zero bytes. -/
def Obligations.AlternativeParametersRoundTripTheAssemblerLayout : Prop :=
  ∀ (line : LineAddr) (s : State) (weights : List Int) (hl : weights.length = 32),
    (∀ (n : Nat) (h : n < (assemblerWeightPayload weights).length),
      payloadByte s.mem line n = (assemblerWeightPayload weights)[n]) →
    let t := finishConfigureWeights assemblerParams (stage .configureWeights .configureWeights line s)
    (∀ (j : Nat) (h : j < 32), t.nodeWeight[31 + j]'(by show 31 + j < 63; omega) = enc8 weights[j]) ∧
    t.nodeWeight[28] = 0 ∧ t.nodeWeight[29] = 0 ∧ t.nodeWeight[30] = 0

/-! ## The adaptor -/

/-- R71, R64, R66: with the adaptor idle, a byte request for the cached line is answered from the cache, with no line fetch
and no change of the adaptor; a bulk request always issues a line fetch; and without a request `byte_ready` is 1 and
nothing changes. -/
def Obligations.CacheHitsOnlyForByteRequests : Prop :=
  ∀ (q : Request) (i : CoreInputs) (d : Adaptor), d.phase = .idle →
    (q.req = true → q.bulk = false → d.cValid = true → d.cTag = lineOf q.baddr →
      adaptorCycle q i d = { next := d, byteReady := true, rdLine := d.cData, rdReq := false, rdAddr := 0 }) ∧
    (q.req = true → q.bulk = true →
      (adaptorCycle q i d).rdReq = true ∧ (adaptorCycle q i d).rdAddr = lineOf q.baddr ∧
      (adaptorCycle q i d).byteReady = false) ∧
    (q.req = false →
      adaptorCycle q i d = { next := d, byteReady := true, rdLine := d.cData, rdReq := false, rdAddr := 0 })

/-- R65, R67, R68: a line fetch. A miss presents the requested line and waits for its acceptance; a presented request is
held, whatever the automaton asks, until the memory accepts it; the arriving line is cached under its address and passed
straight through. -/
def Obligations.LineFetchIsIssuedHeldAndCompleted : Prop :=
  ∀ (q : Request) (i : CoreInputs) (d : Adaptor),
    (d.phase = .idle → q.req = true → d.hits (lineOf q.baddr) q.bulk = false →
      adaptorCycle q i d =
        { next := { d with aLine := lineOf q.baddr, phase := if i.rdReady = true then .wait else .issue },
          byteReady := false, rdLine := d.cData, rdReq := true, rdAddr := lineOf q.baddr }) ∧
    (d.phase = .issue →
      adaptorCycle q i d =
        { next := { d with phase := if i.rdReady = true then .wait else .issue },
          byteReady := false, rdLine := d.cData, rdReq := true, rdAddr := d.aLine }) ∧
    (d.phase = .wait → i.rdValid = true →
      (adaptorCycle q i d).next =
        { cValid := true, cTag := d.aLine, cData := i.rdData, phase := .idle, aLine := d.aLine } ∧
      (adaptorCycle q i d).rdLine = i.rdData ∧ (adaptorCycle q i d).rdReq = false ∧
      ((adaptorCycle q i d).byteReady = true ↔ (q.req = false ∨ lineOf q.baddr = d.aLine))) ∧
    (d.phase = .wait → i.rdValid = false →
      (adaptorCycle q i d).next = d ∧ (adaptorCycle q i d).rdLine = d.cData ∧
      (adaptorCycle q i d).byteReady = false ∧ (adaptorCycle q i d).rdReq = false)

/-- R70: in a legal state `byte_ready = 0` exactly while a line fetch is outstanding: in the cycle of a miss, in every
ISSUE cycle, and in every WAIT cycle in which the line does not arrive. Where the cached line is as `M` holds it, a
requester that sees `byte_ready = 1` sees `M` at the requested line. -/
def Obligations.ByteReadyIsLowOnlyDuringAFetch : Prop :=
  ∀ (inp : Inputs) (s : State), Inv s → inp.rst = false →
    ((adaptorAnswer inp s).byteReady = false ↔
      ((s.adaptor.phase = .idle ∧ (request params s.auto).req = true ∧
          s.adaptor.hits (lineOf (request params s.auto).baddr) (request params s.auto).bulk = false) ∨
        s.adaptor.phase = .issue ∨
        (s.adaptor.phase = .wait ∧ inp.rdValid = false))) ∧
    (Coherent s → accepts inp s = true →
      (adaptorAnswer inp s).rdLine = s.mem.readLine (lineOf (request params s.auto).baddr))

/-- R72: where the automaton takes the reset action in the cycle the line arrives, the clear wins: the line and its tag
are written, and the cache ends invalid. -/
def Obligations.CacheClearWinsOverAFill : Prop :=
  ∀ (inp : Inputs) (s : State), inp.rst = false → Admitted inp s → s.auto.st = .fetchOp →
    s.adaptor.phase = .wait → inp.rdValid = true → s.adaptor.aLine = lineOf s.auto.pc →
    execState (memByte s.mem s.auto.pc) = none →
    ∃ t, clock inp s = .next t ∧
      t.adaptor =
        { cValid := false
          cTag := lineOf s.auto.pc
          cData := s.mem.readLine (lineOf s.auto.pc)
          phase := .idle
          aLine := lineOf s.auto.pc } ∧
      t.auto.st = .reset ∧ t.auto.pc = 0

/-- R119: a request is held, with its address and its kind, until the cycle that answers it. -/
def Obligations.RequestIsHeldUntilAnswered : Prop :=
  ∀ (inp : Inputs) (s t : State), inp.rst = false → clock inp s = .next t →
    (request params s.auto).req = true → (adaptorAnswer inp s).byteReady = false →
    request params t.auto = request params s.auto

/-! ## The automaton's cycles -/

/-- R113: in FETCH_OP, in the cycle that accepts a recognised opcode other than `Reset`, the opcode and its operand count
are recorded, `pc` advances, and the state is FETCH_PARAMS; no other automaton register changes. -/
def Obligations.FetchOpDecodesARecognisedOpcode : Prop :=
  ∀ (inp : Inputs) (s : State), inp.rst = false → Admitted inp s → s.auto.st = .fetchOp →
    accepts inp s = true → 2 ≤ (acceptedByte inp s).toNat → (acceptedByte inp s).toNat ≤ 7 →
    ∃ t, clock inp s = .next t ∧
      t.auto = { s.auto with
        st := .fetchParams
        opcode := acceptedByte inp s
        nParams := if (acceptedByte inp s).toNat = 4 ∨ (acceptedByte inp s).toNat = 5 then 5 else 3
        paramCnt := 0
        pc := s.auto.pc + 1 } ∧
      t.mem = s.mem ∧ SameNodes s t ∧ t.events = s.events

/-- R126, R127: in FETCH_OP, in the cycle that accepts 0x01 or an illegal byte, the reset action is taken. The cycle's
outputs are those of FETCH_OP: no line fetch, no fan-out, no write, `df_valid = 0`, `status = 1`. -/
def Obligations.FetchOpTakesTheResetAction : Prop :=
  ∀ (inp : Inputs) (s : State), inp.rst = false → Admitted inp s → s.auto.st = .fetchOp →
    accepts inp s = true → ((acceptedByte inp s).toNat ≤ 1 ∨ 8 ≤ (acceptedByte inp s).toNat) →
    ∃ t, clock inp s = .next t ∧
      t.auto = zeroedAutomaton ∧
      t.adaptor = { (adaptorAnswer inp s).next with cValid := false } ∧
      t.adaptor.phase = .idle ∧ t.mem = s.mem ∧ SameNodes s t ∧ t.events = s.events ∧
      (outputs inp s).rdReq = false ∧ (outputs inp s).lanes = lanesOff ∧ (outputs inp s).wrReq = false ∧
      (outputs inp s).dfValid = false ∧ (outputs inp s).status = 1

/-- R114, R32 to R34: one operand byte. Byte `k < 3` goes to `addr[8k+7:8k]` and leaves the other two bytes, byte 3 goes to
`pbuf`, byte 4 to `lcount`; the operand count and `pc` advance, and no other register changes. -/
def Obligations.OperandByteGoesToItsPlace : Prop :=
  ∀ (b : Byte) (a : Automaton),
    (∀ k < 3, a.paramCnt.toNat = k →
      addrByte (acceptOperand b a).addr k = b ∧
      (∀ j < 3, j ≠ k → addrByte (acceptOperand b a).addr j = addrByte a.addr j) ∧
      acceptOperand b a =
        { a with addr := (acceptOperand b a).addr, paramCnt := a.paramCnt + 1, pc := a.pc + 1 }) ∧
    (a.paramCnt.toNat = 3 →
      acceptOperand b a = { a with pbuf := b, paramCnt := a.paramCnt + 1, pc := a.pc + 1 }) ∧
    (a.paramCnt.toNat = 4 →
      acceptOperand b a = { a with lcount := b, paramCnt := a.paramCnt + 1, pc := a.pc + 1 })

/-- R114, R115: a FETCH_PARAMS cycle in a legal state. While operands are missing it accepts one when its byte is ready and
otherwise changes nothing; when all are there it dispatches in a cycle of its own, with no memory request, and with
`offset` and `wr_wait` 0. -/
def Obligations.FetchParamsStreamsThenDispatches : Prop :=
  ∀ (inp : Inputs) (s : State), Inv s → inp.rst = false → Admitted inp s → s.auto.st = .fetchParams →
    ∃ t, clock inp s = .next t ∧
      (s.auto.paramCnt < s.auto.nParams → accepts inp s = true →
        t.auto = acceptOperand (acceptedByte inp s) s.auto) ∧
      (s.auto.paramCnt < s.auto.nParams → accepts inp s = false → t.auto = s.auto) ∧
      (s.auto.paramCnt = s.auto.nParams →
        execState s.auto.opcode = some t.auto.st ∧ t.auto = { s.auto with st := t.auto.st } ∧
        t.adaptor = s.adaptor ∧ (outputs inp s).rdReq = false ∧ t.auto.offset = 0 ∧ t.auto.wrWait = false) ∧
      t.mem = s.mem ∧ SameNodes s t ∧ t.events = s.events

/-- R143, R147, R48: a hand-off cycle. `df_valid` is 1 and the operand outputs are the registers; there is no memory
request and no fan-out; the state goes to FETCH_OP exactly when `df_done = 1`, and no other register changes. `M` takes
the dataflow core's writes of the cycle, and in the cycle with `df_done = 1` there are none: every write is finished before
it. That the hand-off is listed among the observed results once, in the cycle in which `dfBusy` is false, is the model's
own record (DESIGN CHOICE: log 7, 11). -/
def Obligations.HandoffIsHeldUntilDone : Prop :=
  ∀ (inp : Inputs) (s : State), inp.rst = false → Admitted inp s → s.auto.st.isHandoff = true →
    s.adaptor.phase = .idle →
    (outputs inp s).dfValid = true ∧ (outputs inp s).dfOp = s.auto.opcode ∧ (outputs inp s).dfAddr = s.auto.addr ∧
    (outputs inp s).dfPbuf = s.auto.pbuf ∧ (outputs inp s).dfLcount = s.auto.lcount ∧
    (outputs inp s).rdReq = false ∧ (outputs inp s).wrReq = false ∧ (outputs inp s).lanes = lanesOff ∧
    (outputs inp s).status = s.auto.st.code ∧
    ∃ t, clock inp s = .next t ∧
      t.auto = (if inp.dfDone = true then { s.auto with st := .fetchOp } else s.auto) ∧
      t.adaptor = s.adaptor ∧ SameNodes s t ∧
      t.mem = s.mem.writeLines inp.dfWrites ∧ (inp.dfDone = true → t.mem = s.mem) ∧
      t.events = if s.dfBusy = true then s.events
        else .handOff s.auto.opcode s.auto.addr s.auto.pbuf s.auto.lcount :: s.events

/-- R148, R149, R57: a DEBUG cycle before the end. A line not yet accepted is presented, and `wr_wait` is set exactly when
the port accepts it, which writes it; an accepted line is only awaited, and its acknowledge counts it and clears the
cache. -/
def Obligations.DebugPresentsAcceptsAndAcknowledges : Prop :=
  ∀ (inp : Inputs) (s : State), inp.rst = false → Admitted inp s → s.auto.st = .debug →
    s.auto.offset.toNat ≠ 24 →
    ∃ t, clock inp s = .next t ∧ SameNodes s t ∧
      (s.auto.wrWait = false →
        (outputs inp s).wrReq = true ∧ (outputs inp s).wrAddr = s.auto.addr + s.auto.offset.setWidth 24 ∧
        (outputs inp s).wrData = snap params s.nodeState s.nodeWeight s.auto.offset.toNat ∧
        t.auto = { s.auto with wrWait := inp.wrReady } ∧
        t.mem = (if inp.wrReady = true then s.mem.writeLine (outputs inp s).wrAddr (outputs inp s).wrData else s.mem)) ∧
      (s.auto.wrWait = true →
        (outputs inp s).wrReq = false ∧ t.mem = s.mem ∧
        (inp.wrAck = false → t.auto = s.auto) ∧
        (inp.wrAck = true → t.auto = { s.auto with wrWait := false, offset := s.auto.offset + 1 } ∧
          t.adaptor.cValid = false))

/-- R57: a presented line write is held, with its address and its data, until the cycle that accepts it. -/
def Obligations.WriteIsHeldUntilAccepted : Prop :=
  ∀ (inp inp' : Inputs) (s t : State), inp.rst = false → inp'.rst = false → clock inp s = .next t →
    (outputs inp s).wrReq = true → inp.wrReady = false →
    (outputs inp' t).wrReq = true ∧ (outputs inp' t).wrAddr = (outputs inp s).wrAddr ∧
    (outputs inp' t).wrData = (outputs inp s).wrData

/-- R112, R159: `start` is looked at in RESET only. There its level takes CORE to FETCH_OP and nothing else of CORE changes;
in any other state it makes no difference. -/
def Obligations.StartIsSampledOnlyInReset : Prop :=
  (∀ (inp : Inputs) (s : State), inp.rst = false → Admitted inp s → s.auto.st = .reset →
    s.adaptor.phase = .idle →
    ∃ t, clock inp s = .next t ∧
      t.auto = { s.auto with st := if inp.start = true then .fetchOp else .reset } ∧
      t.adaptor = s.adaptor ∧ t.mem = s.mem.writeLines inp.hostWrites ∧ SameNodes s t ∧
      (outputs inp s).rdReq = false) ∧
  (∀ (inp : Inputs) (b : Bool) (s : State), s.auto.st ≠ .reset → clock { inp with start := b } s = clock inp s)

/-- R120: the state transitions. With `rst` the next state is RESET. Otherwise each state has the transitions of R120's
table, under their conditions, and in every other case the state is unchanged. -/
def Obligations.TransitionsAreTheListedOnes : Prop :=
  ∀ (inp : Inputs) (s t : State), clock inp s = .next t →
    (inp.rst = true → t.auto.st = .reset) ∧
    (inp.rst = false →
      (s.auto.st = .reset → t.auto.st = if inp.start = true then .fetchOp else .reset) ∧
      (s.auto.st = .fetchOp → t.auto.st =
        if accepts inp s = false then .fetchOp
        else if 2 ≤ (acceptedByte inp s).toNat ∧ (acceptedByte inp s).toNat ≤ 7 then .fetchParams else .reset) ∧
      (s.auto.st = .fetchParams → s.auto.paramCnt = s.auto.nParams → execState s.auto.opcode = some t.auto.st) ∧
      (s.auto.st = .fetchParams → s.auto.paramCnt ≠ s.auto.nParams → t.auto.st = .fetchParams) ∧
      (s.auto.st = .configureStates → t.auto.st =
        if s.auto.offset.toNat = 16 then .fetchOp else .configureStates) ∧
      (s.auto.st = .configureWeights → t.auto.st =
        if s.auto.offset.toNat = 8 then .fetchOp else .configureWeights) ∧
      (s.auto.st.isHandoff = true → t.auto.st = if inp.dfDone = true then .fetchOp else s.auto.st) ∧
      (s.auto.st = .debug → t.auto.st = if s.auto.offset.toNat = 24 then .fetchOp else .debug)) ∧
    execState 0x02 = some .configureStates ∧ execState 0x03 = some .configureWeights ∧
    execState 0x04 = some .loadFeatures ∧ execState 0x05 = some .storeFeatures ∧
    execState 0x06 = some .run ∧ execState 0x07 = some .debug

/-- R118, R28: `pc` changes only in a cycle that accepts an instruction byte, to `pc + 1`, or that takes a reset, to 0. -/
def Obligations.PcAdvancesByOneOrIsReset : Prop :=
  ∀ (inp : Inputs) (s t : State), clock inp s = .next t →
    t.auto.pc = s.auto.pc ∨
    (t.auto.pc = s.auto.pc + 1 ∧ (s.auto.st = .fetchOp ∨ s.auto.st = .fetchParams) ∧ accepts inp s = true) ∨
    (t.auto.pc = 0 ∧ t.auto.st = .reset)

/-- R158: the waits. Without the awaited input no automaton register changes: a byte or line that is not ready, a write that
is not accepted or not acknowledged, a hand-off that is not done, a RESET without `start`. And no timeout ends one: where
the input stays absent, the machine's own run of any length, from any such state, goes on and is still in that wait. -/
def Obligations.WaitsKeepTheAutomaton : Prop :=
  (∀ (inp : Inputs) (s t : State), inp.rst = false → clock inp s = .next t →
    ((request params s.auto).req = true ∧ (adaptorAnswer inp s).byteReady = false) ∨ Unanswered inp s →
    t.auto = s.auto) ∧
  (∀ (n : Nat) (inp : Inputs) (s : State), s.inputs = [] → s.thereafter = .steady inp → inp.rst = false →
    Admitted inp s → ((Pending s ∧ inp.rdValid = false) ∨ Unanswered inp s) →
    ∃ t, Host.Core.run Sys2Proof.core n s = .next t ∧ t.auto = s.auto ∧ SameNodes s t)

/-! ## The fan-out -/

/-- R129, R130, R131: a configuration state that receives a line, in a cycle without `rst`, enables all four lanes: lane
`i` carries byte `i` of the line to node `BASE + 4 * offset + i`, and all carry the transfer's weight-select. In every
other cycle every lane's outputs are 0. -/
def Obligations.LanesAreContiguousAndUniform : Prop :=
  ∀ (inp : Inputs) (s : State),
    (inp.rst = false → accepts inp s = true → s.auto.st = .configureStates → ∀ (i : Nat) (h : i < 4),
      (outputs inp s).lanes[i] =
        { en := true, node := BitVec.ofNat 6 (4 * s.auto.offset.toNat + i),
          data := (adaptorAnswer inp s).rdLine[i], wsel := false } ∧
      4 * s.auto.offset.toNat + i < 64) ∧
    (inp.rst = false → accepts inp s = true → s.auto.st = .configureWeights → ∀ (i : Nat) (h : i < 4),
      (outputs inp s).lanes[i] =
        { en := true, node := BitVec.ofNat 6 (31 + 4 * s.auto.offset.toNat + i),
          data := (adaptorAnswer inp s).rdLine[i], wsel := true } ∧
      31 + 4 * s.auto.offset.toNat + i < 63) ∧
    ((inp.rst = true ∨ accepts inp s = false ∨ (s.auto.st ≠ .configureStates ∧ s.auto.st ≠ .configureWeights)) →
      ∀ (i : Nat) (h : i < 4), (outputs inp s).lanes[i] = { en := false, node := 0, data := 0, wsel := false })

/-- R138, R139: the multiplexer. In every cycle each node receives what it routes to it. A node that no enabled lane
addresses receives nothing; otherwise it receives the byte and the weight-select of the lowest lane that addresses it.
The routing is stated of every setting of the lanes. -/
def Obligations.MultiplexerTakesTheLowestLane : Prop :=
  (∀ (inp : Inputs) (s : State) (n : Nat) (h : n < Config.numNodes),
    (outputs inp s).nodes[n] = muxNode (outputs inp s).lanes n) ∧
  ∀ (lanes : Vector Lane 4) (n : Nat),
    ((∀ (i : Nat) (h : i < 4), ¬ ((lanes[i]).en = true ∧ (lanes[i]).node.toNat = n)) →
      muxNode lanes n = { en := false, data := 0, wsel := false }) ∧
    (∀ (i : Nat) (h : i < 4), (lanes[i]).en = true → (lanes[i]).node.toNat = n →
      (∀ (j : Nat) (hj : j < i), ¬ ((lanes[j]).en = true ∧ (lanes[j]).node.toNat = n)) →
      muxNode lanes n = { en := true, data := (lanes[i]).data, wsel := (lanes[i]).wsel })

/-- R140: in every cycle the nodes' registers follow their inputs: a state code is written with weight-select 0, a weight
with weight-select 1, and otherwise a register keeps its value. -/
def Obligations.NodeRegistersFollowTheirInputs : Prop :=
  ∀ (inp : Inputs) (s t : State), clock inp s = .next t → ∀ (n : Nat) (h : n < Config.numNodes),
    t.nodeState[n] = (if ((outputs inp s).nodes[n]).en = true ∧ ((outputs inp s).nodes[n]).wsel = false
      then ((outputs inp s).nodes[n]).data else s.nodeState[n]) ∧
    t.nodeWeight[n] = (if ((outputs inp s).nodes[n]).en = true ∧ ((outputs inp s).nodes[n]).wsel = true
      then ((outputs inp s).nodes[n]).data else s.nodeWeight[n])

/-! ## The whole machine -/

/-- R59, R77, R143: who writes `M`. In a cycle that changes it, the write port has accepted a line from DEBUG, or the dataflow
core writes in a hand-off before it is done, or the host writes in RESET with the adaptor idle. -/
def Obligations.OnlyThreeAgentsWriteMemory : Prop :=
  ∀ (inp : Inputs) (s t : State), clock inp s = .next t →
    t.mem = s.mem ∨
    (s.auto.st = .debug ∧ (outputs inp s).wrReq = true ∧ inp.wrReady = true ∧
      t.mem = s.mem.writeLine (outputs inp s).wrAddr (outputs inp s).wrData) ∨
    (s.auto.st.isHandoff = true ∧ (outputs inp s).dfValid = true ∧ inp.dfDone = false ∧
      t.mem = s.mem.writeLines inp.dfWrites) ∨
    (s.auto.st = .reset ∧ s.adaptor.phase = .idle ∧ t.mem = s.mem.writeLines inp.hostWrites)

/-- R51, R129: CORE writes the node registers only through the lanes: a state code changes only in CONFIGURE_STATES, a
weight only in CONFIGURE_WEIGHTS, and `rst` changes neither. -/
def Obligations.OnlyTransfersWriteTheNodes : Prop :=
  ∀ (inp : Inputs) (s t : State), clock inp s = .next t →
    (t.nodeState ≠ s.nodeState → s.auto.st = .configureStates ∧ inp.rst = false) ∧
    (t.nodeWeight ≠ s.nodeWeight → s.auto.st = .configureWeights ∧ inp.rst = false)

/-- R83, R175: which instructions keep the cache in agreement with `M`. Every instruction that is not a hand-off does; a
hand-off does where the dataflow core does not write the cached line. -/
def Obligations.CacheStaysCoherentButForTheDataflowCore : Prop :=
  ∀ (i : Instr) (s t : State), Coherent s → exec i s = .next t →
    (isHandoffInstr i = true → ∀ w ∈ dataflowWrites s, w.line ≠ s.adaptor.cTag) → Coherent t

/-- R174 (93 I17), R59, R143: a write of `M` that its agent has no move for is refused by name: of the host outside RESET, with
a fetch outstanding, or in a cycle with `rst` or `start`; and of the dataflow core outside a hand-off, in a cycle with
`rst`, or in the cycle with `df_done = 1` (log 10). -/
def Obligations.UnadmittedWritesAreRefused : Prop :=
  (∀ (inp : Inputs) (s : State), inp.hostWrites ≠ [] →
    (s.auto.st ≠ .reset ∨ s.adaptor.phase ≠ .idle ∨ inp.rst = true ∨ inp.start = true) →
    clock inp s = .refused .hostWriteOutsideReset) ∧
  (∀ (inp : Inputs) (s : State), inp.hostWrites = [] → inp.dfWrites ≠ [] →
    (s.auto.st.isHandoff = false ∨ inp.rst = true ∨ inp.dfDone = true) →
    clock inp s = .refused .dataflowWriteOutsideHandoff)

/-- The state after reset is a legal state. -/
def Obligations.ResetStateIsLegal : Prop := Inv State.reset

/-- From every legal state, a step (a clock cycle with any inputs, or a run to the next instruction boundary) gives a legal
state: in RESET every register is 0 and nothing is cached or outstanding (R122, R126); operands are counted within the
arity of a decoded opcode (R116, R31); `offset` and `wr_wait` are within their states (R35, R36); a fetch is outstanding
only for the line requested (R119); memory keeps its canonical form. -/
def Obligations.StepKeepsTheLegalStates : Prop :=
  ∀ (s t : State), Inv s → step s = .next t → Inv t

/-- R153: no condition of CORE stops it. No run from a legal state, of any length and with any inputs, ends in a fault. -/
def Obligations.NoRunFromALegalStateFaults : Prop :=
  ∀ (n : Nat) (s : State), Inv s → SafeRun n s

/-- R6, R121, R143: the instruction level is what the cycle level does. From a legal state outside RESET, take one clock
cycle without `rst`, with any latencies. If the cycle ends the instruction (it enters RESET, or enters FETCH_OP from an
execute state), it gives exactly the state that the run to the instruction boundary gives, a hand-off that is done having
no write left. Otherwise the run to the boundary from the state after the cycle is the run from the state before: no
latency changes what the instruction does. Within a hand-off the lines that the run to the boundary writes are those of
the cycle and then those of the rest. -/
def Obligations.ClockCyclesRefineTheInstruction : Prop :=
  ∀ (inp : Inputs) (s t : State), Inv s → s.auto.st ≠ .reset → inp.rst = false → clock inp s = .next t →
    ((t.auto.st = .reset ∨ (t.auto.st = .fetchOp ∧ s.auto.st ≠ .fetchOp)) →
      (s.auto.st.isHandoff = false → runToBoundary s = .next t) ∧
      (s.auto.st.isHandoff = true → runToBoundary (s.planWrites []) = .next t)) ∧
    (¬ (t.auto.st = .reset ∨ (t.auto.st = .fetchOp ∧ s.auto.st ≠ .fetchOp)) →
      (s.auto.st.isHandoff = false → runToBoundary t = runToBoundary s) ∧
      (s.auto.st.isHandoff = true →
        ∀ ws, runToBoundary (t.planWrites ws) = runToBoundary (s.planWrites (inp.dfWrites ++ ws))))

/-- R136, R150, R183: with the reference memory (R60), CONFIGURE_STATES lasts 33 cycles, CONFIGURE_WEIGHTS 17 and DEBUG 49,
and they end where the instruction level ends. -/
def Obligations.ReferenceMemoryCycleCounts : Prop :=
  ∀ (s : State), Inv s → s.adaptor.phase = .idle → s.auto.offset = 0 → s.auto.wrWait = false →
    (s.auto.st = .configureStates → referenceClocks false 33 s = .next (finishConfigureStates s)) ∧
    (s.auto.st = .configureWeights → referenceClocks false 17 s = .next (finishConfigureWeights params s)) ∧
    (s.auto.st = .debug → referenceClocks false 49 s = .next (finishDebug params s))

/-! ## The host's image -/

/-- R12: an image the builder makes is 1024 bytes, and ends its instructions with the terminator (R97) within the
instruction region (R177). -/
def Obligations.ImageIsTwoRegions : Prop :=
  ∀ (T : Target) (ops : List Operation) (image : List Byte), assemble T ops = some image →
    image.length = 1024 ∧ (build ops).instrs.length ≤ 512 ∧ (build ops).instrs.getLast? = some 0x01 ∧
    ∀ (k : Nat) (h : k < (build ops).instrs.length), image[k]? = some (build ops).instrs[k]

/-- R104, R155, R103, R154: what the builder refuses, whatever else the program holds: a weight outside `[-128, 127]`, an
operation outside the seven, and a target whose address width is not 3 bytes or whose node count is not 63. Two kinds of
refusal are the model's own (DEDUCED: log 19), since no rule lists them: a payload that is not one code per node or one
weight per multiplier, the lengths R98 and R99 lay out; and a target whose node addresses or counts do not fit their
widths, its reading of R154's "fixed-width precondition violations". -/
def Obligations.BuildErrorsAreRefused : Prop :=
  (∀ (T : Target) (ops : List Operation) (weights : List Int) (w : Int),
    Operation.configureWeights weights ∈ ops → w ∈ weights → (w < -128 ∨ 127 < w) → assemble T ops = none) ∧
  (∀ (T : Target) (ops : List Operation) (codes : List Byte),
    Operation.configureStates codes ∈ ops → codes.length ≠ 63 → assemble T ops = none) ∧
  (∀ (T : Target) (ops : List Operation) (weights : List Int),
    Operation.configureWeights weights ∈ ops → weights.length ≠ 63 - T.parameters.numAdders → assemble T ops = none) ∧
  (∀ (T : Target) (ops : List Operation) (name : String),
    Operation.unrecognised name ∈ ops → assemble T ops = none) ∧
  (∀ (T : Target) (ops : List Operation),
    (T.addrBytes ≠ 3 ∨ T.numNodes ≠ 63 ∨ T.numNodes < T.parameters.numAdders ∨
      64 < T.parameters.weightNodeBase + 4 * T.parameters.itersW ∨ 32 ≤ 16 + T.parameters.itersW) →
    assemble T ops = none)

/-- R98, R99, R101, R106 (95 W4): the image of one `ConfigureStates` and one `ConfigureWeights`: their payloads start at
lines 128 and 144, the codes and their zero byte, then the weights, and zeros to the end. -/
def Obligations.ConfigurationImageLayout : Prop :=
  ∀ (codes : List Byte) (weights : List Int) (hc : codes.length = 63) (hw : weights.length = 32),
    (∀ w ∈ weights, weightInRange w = true) →
    ∃ image, assemble .reference [.configureStates codes, .configureWeights weights] = some image ∧
      image.take 9 = [0x02, 0x80, 0x00, 0x00, 0x03, 0x90, 0x00, 0x00, 0x01] ∧
      (∀ k, 9 ≤ k → k < 512 → image[k]? = some 0) ∧
      (∀ (n : Nat) (h : n < 63), image[512 + n]? = some codes[n]) ∧ image[575]? = some 0 ∧
      (∀ (j : Nat) (h : j < 32), image[576 + j]? = some (enc8 weights[j])) ∧
      (∀ k, 608 ≤ k → k < 1024 → image[k]? = some 0)

/-- R173, R171: the boot sequence. After the host's `rst` cycle, its image writes and its `start` cycle, CORE is in FETCH_OP
with every other automaton register 0, nothing is cached, and `M` holds the image from byte address 0 on and the free
value `MEM_INIT` beyond it (R58). -/
def Obligations.BootLoadsTheImageAndStarts : Prop :=
  ∀ (image : List Byte), image.length = 1024 →
    ∃ t, Host.Core.run Sys2Proof.core 3 (launch image) = .next t ∧
      t.auto = { Automaton.reset with st := .fetchOp } ∧ t.adaptor = Adaptor.reset ∧ t.inputs = [] ∧
      (∀ (k : Nat) (h : k < image.length), t.mem.read k = image[k]) ∧
      (∀ k, image.length ≤ k → t.mem.read k = Config.memInit k)
end

