-- ==== Sys2Proof/Laws/Decode.lean ====
section
/-! SUPPORT. The small laws of the opcode map and of the address field. -/

namespace Sys2Proof

@[simp] theorem Opcode.ofByte_code (op : Opcode) : Opcode.ofByte op.code = some op := by
  cases op <;> rfl

@[simp] theorem arity_code (op : Opcode) : arity op.code = op.arity := by
  cases op <;> rfl

/-- A recognised byte is the code of its opcode: every bit is compared (R92). -/
theorem Opcode.code_of_ofByte {b : Byte} {op : Opcode} (h : Opcode.ofByte b = some op) : b = op.code := by
  have key : ∀ b : Byte, ∀ op : Opcode, Opcode.ofByte b = some op → b = op.code := by
    intro b op h
    apply BitVec.eq_of_toNat_eq
    unfold Opcode.ofByte at h
    split at h <;> first | (cases h; simp_all [Opcode.code]) | cases h
  exact key b op h

/-- The address field assembled from its own bytes (R89). -/
@[simp] theorem addrOfBytes_addrByte (a : BitVec 24) :
    addrOfBytes (addrByte a 0) (addrByte a 1) (addrByte a 2) = a := by
  unfold addrOfBytes addrByte
  ext i hi
  simp only [BitVec.getElem_append, BitVec.getElem_extractLsb']
  split
  · simp [BitVec.getLsbD_eq_getElem hi]
  · split
    · have : 8 + (i - 8) = i := by omega
      simp [this, BitVec.getLsbD_eq_getElem hi]
    · have : 16 + (i - 8 - 8) = i := by omega
      simp [this, BitVec.getLsbD_eq_getElem hi]

end Sys2Proof
end

