-- ==== Sys2Proof/Laws/Memory.lean ====
section
/-! SUPPORT. The laws of the backing store: a read after a write, the canonical form kept by every memory operation, and
memories in canonical form that list the same bytes are equal. -/

namespace Sys2Proof.Machine

/-! The canonical form -/

theorem Memory.wf_cons {c : Host.Cell} {m : Memory} (h : Memory.wf (c :: m) = true) :
    Memory.cellOk c m = true ∧ Memory.wf m = true := by
  simpa [Memory.wf] using h

theorem Memory.cellOk_key {c : Host.Cell} {m : Memory} (h : Memory.cellOk c m = true) : c.1 < 2 ^ 26 := by
  cases m <;> simp_all [Memory.cellOk]

/-- In canonical form every later key is above the first. -/
theorem Memory.key_lt_of_wf {c : Host.Cell} {m : Memory} (h : Memory.wf (c :: m) = true) :
    ∀ d ∈ m, c.1 < d.1 := by
  induction m generalizing c with
  | nil => simp
  | cons e rest ih =>
    obtain ⟨hc, hm⟩ := Memory.wf_cons h
    have hce : c.1 < e.1 := by simp_all [Memory.cellOk]
    intro d hd
    rcases List.mem_cons.mp hd with rfl | hd
    · exact hce
    · exact hce.trans (ih hm d hd)

/-- A cell below every key of a canonical memory may stand in front of it. -/
theorem Memory.wf_cons_of_lt {a : Nat} {v : Byte} {m : Memory} (ha : a < 2 ^ 26) (hm : m.wf = true)
    (h : ∀ d ∈ m, a < d.1) : Memory.wf ((a, v) :: m) = true := by
  cases m with
  | nil => simpa [Memory.wf, Memory.cellOk] using ha
  | cons e rest =>
    have he : a < e.1 := h e (by simp)
    simp [Memory.wf, Memory.cellOk, he] at hm ⊢
    exact ⟨by simpa using ha, hm⟩

/-- The keys of a memory after a write: the old ones, and the key written. -/
theorem Memory.mem_write {m : Memory} {a : Nat} {v : Byte} {d : Host.Cell} (h : d ∈ m.write a v) :
    d ∈ m ∨ d.1 = a := by
  induction m with
  | nil => simp_all [Memory.write]
  | cons e rest ih =>
    obtain ⟨k, w⟩ := e
    simp only [Memory.write] at h
    split_ifs at h <;> simp only [List.mem_cons] at h ⊢ <;> aesop

/-- A write keeps the canonical form (R11: the key is a byte address). -/
theorem Memory.wf_write {m : Memory} (hm : m.wf = true) {a : Nat} (ha : a < 2 ^ 26) (v : Byte) :
    (m.write a v).wf = true := by
  induction m with
  | nil => exact Memory.wf_cons_of_lt ha rfl (by simp)
  | cons e rest ih =>
    obtain ⟨k, w⟩ := e
    obtain ⟨hc, hr⟩ := Memory.wf_cons hm
    have hlt := Memory.key_lt_of_wf hm
    simp only [Memory.write]
    split
    · next hak =>
      refine Memory.wf_cons_of_lt ha hm fun d hd => ?_
      rcases List.mem_cons.mp hd with rfl | hd
      · exact hak
      · exact hak.trans (hlt d hd)
    · split
      · next hak => exact Memory.wf_cons_of_lt ha hr (hak ▸ hlt)
      · next h1 h2 =>
        have hka : k < a := by omega
        exact Memory.wf_cons_of_lt (Memory.cellOk_key hc) (ih hr) fun d hd =>
          (Memory.mem_write hd).elim (hlt d) fun h => h ▸ hka

/-! Reads -/

theorem Memory.find_of_lt {m : Memory} {a : Nat} (h : ∀ d ∈ m, a < d.1) : m.find a = none := by
  induction m with
  | nil => rfl
  | cons e rest ih =>
    obtain ⟨k, w⟩ := e
    have hk : a < k := h (k, w) (by simp)
    rw [Memory.find, if_neg (by omega)]
    exact ih fun d hd => h d (by simp [hd])

/-- What a write lists: the byte written at its key, and every other key as before (R57, R77). -/
theorem Memory.find_write (m : Memory) (a b : Nat) (v : Byte) :
    (m.write a v).find b = if b = a then some v else m.find b := by
  induction m with
  | nil => simp [Memory.write, Memory.find, eq_comm]
  | cons e rest ih =>
    obtain ⟨k, w⟩ := e
    simp only [Memory.write]
    split_ifs <;> simp only [Memory.find, ih] <;> split_ifs <;> first | rfl | (exfalso; omega)

/-- A read after a write, at any address (R57). -/
theorem Memory.read_write (m : Memory) (a b : Nat) (v : Byte) :
    (m.write a v).read b = if b = a then v else m.read b := by
  unfold Memory.read
  rw [Memory.find_write]
  split <;> rfl

/-- The byte written is read back (R57). -/
theorem Memory.read_write_same (m : Memory) (a : Nat) (v : Byte) : (m.write a v).read a = v := by
  simp [Memory.read_write]

/-- Every other byte reads as before (R57, R77). -/
theorem Memory.read_write_other (m : Memory) {a b : Nat} (h : b ≠ a) (v : Byte) :
    (m.write a v).read b = m.read b := by
  simp [Memory.read_write, h]

/-- Memories in canonical form that list the same bytes are the same data. -/
theorem Memory.eq_of_find {m n : Memory} (hm : m.wf = true) (hn : n.wf = true)
    (h : ∀ a, m.find a = n.find a) : m = n := by
  induction m generalizing n with
  | nil =>
    cases n with
    | nil => rfl
    | cons e rest => simpa [Memory.find] using h e.1
  | cons e rest ih =>
    obtain ⟨k, w⟩ := e
    have hk := Memory.key_lt_of_wf hm
    cases n with
    | nil => simpa [Memory.find] using h k
    | cons f rest' =>
      obtain ⟨k', w'⟩ := f
      have hk' := Memory.key_lt_of_wf hn
      have hkk : k = k' := by
        rcases Nat.lt_trichotomy k k' with hlt | heq | hgt
        · have hr : Memory.find ((k', w') :: rest') k = none := Memory.find_of_lt fun d hd => by
            rcases List.mem_cons.mp hd with rfl | hd
            · exact hlt
            · exact hlt.trans (hk' d hd)
          simpa [Memory.find, hr] using (h k).trans hr
        · exact heq
        · have hr : Memory.find ((k, w) :: rest) k' = none := Memory.find_of_lt fun d hd => by
            rcases List.mem_cons.mp hd with rfl | hd
            · exact hgt
            · exact hgt.trans (hk d hd)
          simpa [Memory.find, hr] using (h k').symm.trans hr
      subst hkk
      have hww : w = w' := by simpa [Memory.find] using h k
      subst hww
      congr 1
      refine ih (Memory.wf_cons hm).2 (Memory.wf_cons hn).2 fun a => ?_
      by_cases ha : k = a
      · subst ha; rw [Memory.find_of_lt hk, Memory.find_of_lt hk']
      · simpa [Memory.find, ha] using h a

/-! Lines -/

/-- Every byte of every line has a byte address (R11, R54). -/
theorem byteKey_lt (l : LineAddr) {i : Nat} (hi : i < 4) : byteKey l i < 2 ^ 26 := by
  have := l.isLt
  unfold byteKey
  omega

/-- Different bytes have different keys. -/
theorem byteKey_inj {l l' : LineAddr} {i j : Nat} (hi : i < 4) (hj : j < 4) (h : byteKey l i = byteKey l' j) :
    l = l' ∧ i = j := by
  unfold byteKey at h
  refine ⟨BitVec.eq_of_toNat_eq ?_, ?_⟩ <;> omega

/-- A line write keeps the canonical form. -/
theorem Memory.wf_writeLine {m : Memory} (hm : m.wf = true) (l : LineAddr) (v : Line) :
    (m.writeLine l v).wf = true :=
  Memory.wf_write (Memory.wf_write (Memory.wf_write (Memory.wf_write hm (byteKey_lt l (by decide)) _)
    (byteKey_lt l (by decide)) _) (byteKey_lt l (by decide)) _) (byteKey_lt l (by decide)) _

/-- Several line writes keep the canonical form. -/
theorem Memory.wf_writeLines {m : Memory} (hm : m.wf = true) (ws : List LineWrite) :
    (m.writeLines ws).wf = true := by
  unfold Memory.writeLines
  induction ws generalizing m with
  | nil => exact hm
  | cons w rest ih => exact ih (Memory.wf_writeLine hm w.line w.data)

/-- A byte outside a written line reads as before (R77: a write changes only `M(l)`). -/
theorem Memory.read_writeLine_other (m : Memory) (l : LineAddr) (v : Line) {a : Nat}
    (h : ∀ i < 4, a ≠ byteKey l i) : (m.writeLine l v).read a = m.read a := by
  unfold Memory.writeLine
  rw [Memory.read_write_other _ (h 3 (by decide)), Memory.read_write_other _ (h 2 (by decide)),
    Memory.read_write_other _ (h 1 (by decide)), Memory.read_write_other _ (h 0 (by decide))]

/-- Byte `i` of a written line is byte `i` of the line value (R57: all bytes are written). -/
theorem Memory.read_writeLine_same (m : Memory) (l : LineAddr) (v : Line) {i : Nat} (hi : i < 4) :
    (m.writeLine l v).read (byteKey l i) = v[i] := by
  unfold Memory.writeLine
  simp only [Memory.read_write]
  rcases i with _ | _ | _ | _ | i
  · simp [byteKey]
  · simp [byteKey]
  · simp [byteKey]
  · simp [byteKey]
  · omega

@[simp] theorem Memory.readLine_get (m : Memory) (l : LineAddr) {i : Nat} (hi : i < 4) :
    (m.readLine l)[i] = m.read (byteKey l i) := by
  rcases i with _ | _ | _ | _ | i
  · rfl
  · rfl
  · rfl
  · rfl
  · omega

/-- A line written is read back whole (R57, R76). -/
theorem Memory.readLine_writeLine_same (m : Memory) (l : LineAddr) (v : Line) :
    (m.writeLine l v).readLine l = v := by
  refine Vector.ext fun i hi => ?_
  rw [Memory.readLine_get _ _ hi, Memory.read_writeLine_same m l v hi]

/-- Every other line reads as before. -/
theorem Memory.readLine_writeLine_other (m : Memory) {l l' : LineAddr} (h : l' ≠ l) (v : Line) :
    (m.writeLine l v).readLine l' = m.readLine l' := by
  refine Vector.ext fun i hi => ?_
  rw [Memory.readLine_get _ _ hi, Memory.readLine_get _ _ hi]
  exact Memory.read_writeLine_other m l v fun j hj heq => h (byteKey_inj hi hj heq).1

/-- Several line writes leave the bytes of every other line as before (R59). -/
theorem Memory.read_writeLines_other (m : Memory) (ws : List LineWrite) {a : Nat}
    (h : ∀ w ∈ ws, ∀ i < 4, a ≠ byteKey w.line i) : (m.writeLines ws).read a = m.read a := by
  unfold Memory.writeLines
  induction ws generalizing m with
  | nil => rfl
  | cons w rest ih =>
    rw [List.foldl_cons, ih _ fun x hx => h x (by simp [hx])]
    exact Memory.read_writeLine_other m w.line w.data (h w (by simp))

/-- The memory after reset lists nothing, which is canonical. -/
theorem reset_mem_wf : State.reset.mem.wf = true := rfl

end Sys2Proof.Machine
end

