-- ==== Sys2Proof/Laws/State.lean ====
section
/-! SUPPORT. One lemma per field per update of the state: what each named update of Machine/Ops.lean, Handoff.lean and
Debug.lean leaves in each field, so that no later proof unfolds a record update. -/

namespace Sys2Proof.Machine

/-! `clearCache` -/

@[simp] theorem clearCache_auto (s : State) : (clearCache s).auto = s.auto := rfl
@[simp] theorem clearCache_cValid (s : State) : (clearCache s).adaptor.cValid = false := rfl
@[simp] theorem clearCache_cTag (s : State) : (clearCache s).adaptor.cTag = s.adaptor.cTag := rfl
@[simp] theorem clearCache_cData (s : State) : (clearCache s).adaptor.cData = s.adaptor.cData := rfl
@[simp] theorem clearCache_phase (s : State) : (clearCache s).adaptor.phase = s.adaptor.phase := rfl
@[simp] theorem clearCache_aLine (s : State) : (clearCache s).adaptor.aLine = s.adaptor.aLine := rfl
@[simp] theorem clearCache_mem (s : State) : (clearCache s).mem = s.mem := rfl
@[simp] theorem clearCache_nodeState (s : State) : (clearCache s).nodeState = s.nodeState := rfl
@[simp] theorem clearCache_nodeWeight (s : State) : (clearCache s).nodeWeight = s.nodeWeight := rfl
@[simp] theorem clearCache_inputs (s : State) : (clearCache s).inputs = s.inputs := rfl
@[simp] theorem clearCache_thereafter (s : State) : (clearCache s).thereafter = s.thereafter := rfl
@[simp] theorem clearCache_handoffWrites (s : State) : (clearCache s).handoffWrites = s.handoffWrites := rfl
@[simp] theorem clearCache_handoffDraws (s : State) : (clearCache s).handoffDraws = s.handoffDraws := rfl
@[simp] theorem clearCache_dfBusy (s : State) : (clearCache s).dfBusy = s.dfBusy := rfl
@[simp] theorem clearCache_events (s : State) : (clearCache s).events = s.events := rfl

/-! `resetAction` -/

@[simp] theorem resetAction_auto (s : State) : (resetAction s).auto = Automaton.reset := rfl
@[simp] theorem resetAction_cValid (s : State) : (resetAction s).adaptor.cValid = false := rfl
@[simp] theorem resetAction_cTag (s : State) : (resetAction s).adaptor.cTag = s.adaptor.cTag := rfl
@[simp] theorem resetAction_cData (s : State) : (resetAction s).adaptor.cData = s.adaptor.cData := rfl
@[simp] theorem resetAction_phase (s : State) : (resetAction s).adaptor.phase = s.adaptor.phase := rfl
@[simp] theorem resetAction_aLine (s : State) : (resetAction s).adaptor.aLine = s.adaptor.aLine := rfl
@[simp] theorem resetAction_mem (s : State) : (resetAction s).mem = s.mem := rfl
@[simp] theorem resetAction_nodeState (s : State) : (resetAction s).nodeState = s.nodeState := rfl
@[simp] theorem resetAction_nodeWeight (s : State) : (resetAction s).nodeWeight = s.nodeWeight := rfl
@[simp] theorem resetAction_inputs (s : State) : (resetAction s).inputs = s.inputs := rfl
@[simp] theorem resetAction_thereafter (s : State) : (resetAction s).thereafter = s.thereafter := rfl
@[simp] theorem resetAction_handoffWrites (s : State) : (resetAction s).handoffWrites = s.handoffWrites := rfl
@[simp] theorem resetAction_handoffDraws (s : State) : (resetAction s).handoffDraws = s.handoffDraws := rfl
@[simp] theorem resetAction_dfBusy (s : State) : (resetAction s).dfBusy = s.dfBusy := rfl
@[simp] theorem resetAction_events (s : State) : (resetAction s).events = s.events := rfl

/-! `stage` -/

section
variable (op : Opcode) (st : AutoState) (a : BitVec 24) (s : State)

@[simp] theorem stage_st : (stage op st a s).auto.st = st := rfl
@[simp] theorem stage_pc : (stage op st a s).auto.pc = s.auto.pc := rfl
@[simp] theorem stage_opcode : (stage op st a s).auto.opcode = op.code := rfl
@[simp] theorem stage_nParams : (stage op st a s).auto.nParams = BitVec.ofNat 3 op.arity := rfl
@[simp] theorem stage_paramCnt : (stage op st a s).auto.paramCnt = BitVec.ofNat 3 op.arity := rfl
@[simp] theorem stage_addr : (stage op st a s).auto.addr = a := rfl
@[simp] theorem stage_pbuf : (stage op st a s).auto.pbuf = s.auto.pbuf := rfl
@[simp] theorem stage_lcount : (stage op st a s).auto.lcount = s.auto.lcount := rfl
@[simp] theorem stage_offset : (stage op st a s).auto.offset = 0 := rfl
@[simp] theorem stage_wrWait : (stage op st a s).auto.wrWait = false := rfl
@[simp] theorem stage_adaptor : (stage op st a s).adaptor = s.adaptor := rfl
@[simp] theorem stage_mem : (stage op st a s).mem = s.mem := rfl
@[simp] theorem stage_nodeState : (stage op st a s).nodeState = s.nodeState := rfl
@[simp] theorem stage_nodeWeight : (stage op st a s).nodeWeight = s.nodeWeight := rfl
@[simp] theorem stage_inputs : (stage op st a s).inputs = s.inputs := rfl
@[simp] theorem stage_thereafter : (stage op st a s).thereafter = s.thereafter := rfl
@[simp] theorem stage_handoffWrites : (stage op st a s).handoffWrites = s.handoffWrites := rfl
@[simp] theorem stage_handoffDraws : (stage op st a s).handoffDraws = s.handoffDraws := rfl
@[simp] theorem stage_dfBusy : (stage op st a s).dfBusy = s.dfBusy := rfl
@[simp] theorem stage_events : (stage op st a s).events = s.events := rfl

end

/-! `stageFeatures` -/

section
variable (op : Opcode) (st : AutoState) (p c : Byte) (a : BitVec 24) (s : State)

@[simp] theorem stageFeatures_st : (stageFeatures op st p c a s).auto.st = st := rfl
@[simp] theorem stageFeatures_pc : (stageFeatures op st p c a s).auto.pc = s.auto.pc := rfl
@[simp] theorem stageFeatures_opcode : (stageFeatures op st p c a s).auto.opcode = op.code := rfl
@[simp] theorem stageFeatures_nParams : (stageFeatures op st p c a s).auto.nParams = BitVec.ofNat 3 op.arity := rfl
@[simp] theorem stageFeatures_paramCnt : (stageFeatures op st p c a s).auto.paramCnt = BitVec.ofNat 3 op.arity := rfl
@[simp] theorem stageFeatures_addr : (stageFeatures op st p c a s).auto.addr = a := rfl
@[simp] theorem stageFeatures_pbuf : (stageFeatures op st p c a s).auto.pbuf = p := rfl
@[simp] theorem stageFeatures_lcount : (stageFeatures op st p c a s).auto.lcount = c := rfl
@[simp] theorem stageFeatures_offset : (stageFeatures op st p c a s).auto.offset = 0 := rfl
@[simp] theorem stageFeatures_wrWait : (stageFeatures op st p c a s).auto.wrWait = false := rfl
@[simp] theorem stageFeatures_adaptor : (stageFeatures op st p c a s).adaptor = s.adaptor := rfl
@[simp] theorem stageFeatures_mem : (stageFeatures op st p c a s).mem = s.mem := rfl
@[simp] theorem stageFeatures_nodeState : (stageFeatures op st p c a s).nodeState = s.nodeState := rfl
@[simp] theorem stageFeatures_nodeWeight : (stageFeatures op st p c a s).nodeWeight = s.nodeWeight := rfl
@[simp] theorem stageFeatures_inputs : (stageFeatures op st p c a s).inputs = s.inputs := rfl
@[simp] theorem stageFeatures_thereafter : (stageFeatures op st p c a s).thereafter = s.thereafter := rfl
@[simp] theorem stageFeatures_handoffWrites : (stageFeatures op st p c a s).handoffWrites = s.handoffWrites := rfl
@[simp] theorem stageFeatures_handoffDraws : (stageFeatures op st p c a s).handoffDraws = s.handoffDraws := rfl
@[simp] theorem stageFeatures_dfBusy : (stageFeatures op st p c a s).dfBusy = s.dfBusy := rfl
@[simp] theorem stageFeatures_events : (stageFeatures op st p c a s).events = s.events := rfl

end

/-! `endExecution` -/

@[simp] theorem endExecution_st (s : State) : (endExecution s).auto.st = .fetchOp := rfl
@[simp] theorem endExecution_pc (s : State) : (endExecution s).auto.pc = s.auto.pc := rfl
@[simp] theorem endExecution_opcode (s : State) : (endExecution s).auto.opcode = s.auto.opcode := rfl
@[simp] theorem endExecution_nParams (s : State) : (endExecution s).auto.nParams = s.auto.nParams := rfl
@[simp] theorem endExecution_paramCnt (s : State) : (endExecution s).auto.paramCnt = s.auto.paramCnt := rfl
@[simp] theorem endExecution_addr (s : State) : (endExecution s).auto.addr = s.auto.addr := rfl
@[simp] theorem endExecution_pbuf (s : State) : (endExecution s).auto.pbuf = s.auto.pbuf := rfl
@[simp] theorem endExecution_lcount (s : State) : (endExecution s).auto.lcount = s.auto.lcount := rfl
@[simp] theorem endExecution_offset (s : State) : (endExecution s).auto.offset = 0 := rfl
@[simp] theorem endExecution_wrWait (s : State) : (endExecution s).auto.wrWait = s.auto.wrWait := rfl
@[simp] theorem endExecution_adaptor (s : State) : (endExecution s).adaptor = s.adaptor := rfl
@[simp] theorem endExecution_mem (s : State) : (endExecution s).mem = s.mem := rfl
@[simp] theorem endExecution_nodeState (s : State) : (endExecution s).nodeState = s.nodeState := rfl
@[simp] theorem endExecution_nodeWeight (s : State) : (endExecution s).nodeWeight = s.nodeWeight := rfl
@[simp] theorem endExecution_inputs (s : State) : (endExecution s).inputs = s.inputs := rfl
@[simp] theorem endExecution_thereafter (s : State) : (endExecution s).thereafter = s.thereafter := rfl
@[simp] theorem endExecution_handoffWrites (s : State) : (endExecution s).handoffWrites = s.handoffWrites := rfl
@[simp] theorem endExecution_handoffDraws (s : State) : (endExecution s).handoffDraws = s.handoffDraws := rfl
@[simp] theorem endExecution_dfBusy (s : State) : (endExecution s).dfBusy = s.dfBusy := rfl
@[simp] theorem endExecution_events (s : State) : (endExecution s).events = s.events := rfl

/-! `acceptWrite`, `debugAccept`, `debugAck` -/

section
variable (l : LineAddr) (v : Line) (P : Params) (s : State)

@[simp] theorem acceptWrite_auto : (acceptWrite l v s).auto = s.auto := rfl
@[simp] theorem acceptWrite_adaptor : (acceptWrite l v s).adaptor = s.adaptor := rfl
@[simp] theorem acceptWrite_mem : (acceptWrite l v s).mem = s.mem.writeLine l v := rfl
@[simp] theorem acceptWrite_nodeState : (acceptWrite l v s).nodeState = s.nodeState := rfl
@[simp] theorem acceptWrite_nodeWeight : (acceptWrite l v s).nodeWeight = s.nodeWeight := rfl
@[simp] theorem acceptWrite_inputs : (acceptWrite l v s).inputs = s.inputs := rfl
@[simp] theorem acceptWrite_thereafter : (acceptWrite l v s).thereafter = s.thereafter := rfl
@[simp] theorem acceptWrite_handoffWrites : (acceptWrite l v s).handoffWrites = s.handoffWrites := rfl
@[simp] theorem acceptWrite_handoffDraws : (acceptWrite l v s).handoffDraws = s.handoffDraws := rfl
@[simp] theorem acceptWrite_dfBusy : (acceptWrite l v s).dfBusy = s.dfBusy := rfl
@[simp] theorem acceptWrite_events : (acceptWrite l v s).events = .lineWrite l v :: s.events := rfl

theorem debugAccept_auto : (debugAccept P s).auto = { s.auto with wrWait := true } := rfl
@[simp] theorem debugAccept_addr : (debugAccept P s).auto.addr = s.auto.addr := rfl
@[simp] theorem debugAccept_offset : (debugAccept P s).auto.offset = s.auto.offset := rfl
@[simp] theorem debugAccept_adaptor : (debugAccept P s).adaptor = s.adaptor := rfl
@[simp] theorem debugAccept_mem : (debugAccept P s).mem =
    s.mem.writeLine (lineAt s.auto.addr s.auto.offset) (snap P s.nodeState s.nodeWeight s.auto.offset.toNat) := rfl
@[simp] theorem debugAccept_nodeState : (debugAccept P s).nodeState = s.nodeState := rfl
@[simp] theorem debugAccept_nodeWeight : (debugAccept P s).nodeWeight = s.nodeWeight := rfl
@[simp] theorem debugAccept_inputs : (debugAccept P s).inputs = s.inputs := rfl
@[simp] theorem debugAccept_thereafter : (debugAccept P s).thereafter = s.thereafter := rfl
@[simp] theorem debugAccept_handoffWrites : (debugAccept P s).handoffWrites = s.handoffWrites := rfl
@[simp] theorem debugAccept_handoffDraws : (debugAccept P s).handoffDraws = s.handoffDraws := rfl
@[simp] theorem debugAccept_dfBusy : (debugAccept P s).dfBusy = s.dfBusy := rfl
@[simp] theorem debugAccept_events : (debugAccept P s).events =
    .lineWrite (lineAt s.auto.addr s.auto.offset)
      (snap P s.nodeState s.nodeWeight s.auto.offset.toNat) :: s.events := rfl

theorem debugAck_auto : (debugAck s).auto = { s.auto with wrWait := false, offset := s.auto.offset + 1 } := rfl
theorem debugAck_adaptor : (debugAck s).adaptor = { s.adaptor with cValid := false } := rfl
@[simp] theorem debugAck_addr : (debugAck s).auto.addr = s.auto.addr := rfl
@[simp] theorem debugAck_offset : (debugAck s).auto.offset = s.auto.offset + 1 := rfl
@[simp] theorem debugAck_wrWait : (debugAck s).auto.wrWait = false := rfl
@[simp] theorem debugAck_cValid : (debugAck s).adaptor.cValid = false := rfl
@[simp] theorem debugAck_mem : (debugAck s).mem = s.mem := rfl
@[simp] theorem debugAck_nodeState : (debugAck s).nodeState = s.nodeState := rfl
@[simp] theorem debugAck_nodeWeight : (debugAck s).nodeWeight = s.nodeWeight := rfl
@[simp] theorem debugAck_inputs : (debugAck s).inputs = s.inputs := rfl
@[simp] theorem debugAck_thereafter : (debugAck s).thereafter = s.thereafter := rfl
@[simp] theorem debugAck_handoffWrites : (debugAck s).handoffWrites = s.handoffWrites := rfl
@[simp] theorem debugAck_handoffDraws : (debugAck s).handoffDraws = s.handoffDraws := rfl
@[simp] theorem debugAck_dfBusy : (debugAck s).dfBusy = s.dfBusy := rfl
@[simp] theorem debugAck_events : (debugAck s).events = s.events := rfl

end

/-! `performHandoff`: a whole hand-off, presented and done. -/

section
variable (s : State)

@[simp] theorem performHandoff_auto : (performHandoff s).auto = { s.auto with st := .fetchOp } := rfl
@[simp] theorem performHandoff_adaptor : (performHandoff s).adaptor = s.adaptor := rfl
@[simp] theorem performHandoff_mem : (performHandoff s).mem = s.mem.writeLines (dataflowWrites s) := rfl
@[simp] theorem performHandoff_nodeState : (performHandoff s).nodeState = s.nodeState := rfl
@[simp] theorem performHandoff_nodeWeight : (performHandoff s).nodeWeight = s.nodeWeight := rfl
@[simp] theorem performHandoff_inputs : (performHandoff s).inputs = s.inputs := rfl
@[simp] theorem performHandoff_thereafter : (performHandoff s).thereafter = s.thereafter := rfl
@[simp] theorem performHandoff_handoffWrites : (performHandoff s).handoffWrites = s.handoffWrites.tail := rfl
@[simp] theorem performHandoff_handoffDraws : (performHandoff s).handoffDraws = drawsAfter s := rfl
@[simp] theorem performHandoff_dfBusy : (performHandoff s).dfBusy = false := rfl
@[simp] theorem performHandoff_events : (performHandoff s).events =
    .handOff s.auto.opcode s.auto.addr s.auto.pbuf s.auto.lcount :: s.events := rfl

end

end Sys2Proof.Machine
end

