-- ==== Sys2Proof/Laws/Ops.lean ====
section
/-! SUPPORT. What each shared operation can do, said once: a completed request to the adaptor, the fetch of instruction
bytes, the fan-out of a line, and one line of a transfer. -/

namespace Sys2Proof.Machine

/-! A completed request (20_memory.md R63 to R71) -/

/-- A request either hits and changes nothing, or ends with `M(l)` presented and cached. -/
theorem requestLine_cases (l : LineAddr) (bulk : Bool) (s : State) :
    (s.adaptor.hits l bulk = true ∧ requestLine l bulk s = (s.adaptor.cData, s)) ∨
    (s.adaptor.hits l bulk = false ∧ requestLine l bulk s =
      (s.mem.readLine l, { s with adaptor := Adaptor.filled l (s.mem.readLine l) })) := by
  unfold requestLine
  cases h : s.adaptor.hits l bulk <;> simp

/-- A hit needs the idle adaptor, the cached line, and a request that is not bulk (R63). -/
theorem Adaptor.hits_iff (d : Adaptor) (l : LineAddr) (bulk : Bool) :
    d.hits l bulk = true ↔ d.phase = .idle ∧ d.cValid = true ∧ d.cTag = l ∧ bulk = false := by
  simp [Adaptor.hits, and_assoc]

@[simp] theorem Adaptor.hits_bulk (d : Adaptor) (l : LineAddr) : d.hits l true = false := by
  simp [Adaptor.hits]

/-- A bulk request always ends with `M(l)`, read from `M` (R71). -/
theorem requestLine_bulk (l : LineAddr) (s : State) : requestLine l true s =
    (s.mem.readLine l, { s with adaptor := Adaptor.filled l (s.mem.readLine l) }) := by
  simp [requestLine]

section
variable (l : LineAddr) (bulk : Bool) (s : State)

@[simp] theorem requestLine_auto : (requestLine l bulk s).2.auto = s.auto := by
  unfold requestLine; split <;> rfl
@[simp] theorem requestLine_mem : (requestLine l bulk s).2.mem = s.mem := by
  unfold requestLine; split <;> rfl
@[simp] theorem requestLine_nodeState : (requestLine l bulk s).2.nodeState = s.nodeState := by
  unfold requestLine; split <;> rfl
@[simp] theorem requestLine_nodeWeight : (requestLine l bulk s).2.nodeWeight = s.nodeWeight := by
  unfold requestLine; split <;> rfl
@[simp] theorem requestLine_inputs : (requestLine l bulk s).2.inputs = s.inputs := by
  unfold requestLine; split <;> rfl
@[simp] theorem requestLine_thereafter : (requestLine l bulk s).2.thereafter = s.thereafter := by
  unfold requestLine; split <;> rfl
@[simp] theorem requestLine_handoffWrites : (requestLine l bulk s).2.handoffWrites = s.handoffWrites := by
  unfold requestLine; split <;> rfl
@[simp] theorem requestLine_handoffDraws : (requestLine l bulk s).2.handoffDraws = s.handoffDraws := by
  unfold requestLine; split <;> rfl
@[simp] theorem requestLine_dfBusy : (requestLine l bulk s).2.dfBusy = s.dfBusy := by
  unfold requestLine; split <;> rfl
@[simp] theorem requestLine_events : (requestLine l bulk s).2.events = s.events := by
  unfold requestLine; split <;> rfl

end

/-- Where the cache agrees with `M`, the line presented is `M(l)` (R70). -/
theorem requestLine_line_of_coherent (l : LineAddr) (bulk : Bool) {s : State} (h : Coherent s) :
    (requestLine l bulk s).1 = s.mem.readLine l := by
  rcases requestLine_cases l bulk s with ⟨hh, he⟩ | ⟨_, he⟩
  · obtain ⟨_, hv, ht, _⟩ := (Adaptor.hits_iff _ _ _).mp hh
    rw [he, ← ht]
    exact h hv
  · rw [he]

/-- A completed request leaves the adaptor idle. -/
theorem requestLine_phase (l : LineAddr) (bulk : Bool) (s : State) : (requestLine l bulk s).2.adaptor.phase = .idle := by
  rcases requestLine_cases l bulk s with ⟨hh, he⟩ | ⟨_, he⟩
  · rw [he]; exact ((Adaptor.hits_iff _ _ _).mp hh).1
  · rw [he]; rfl

/-- A completed request leaves the cached line valid, and it is the line requested (R68). -/
theorem requestLine_cached (l : LineAddr) (bulk : Bool) (s : State) :
    (requestLine l bulk s).2.adaptor.cValid = true ∧ (requestLine l bulk s).2.adaptor.cTag = l ∧
    (requestLine l bulk s).2.adaptor.cData = (requestLine l bulk s).1 := by
  rcases requestLine_cases l bulk s with ⟨hh, he⟩ | ⟨_, he⟩
  · obtain ⟨_, hv, ht, _⟩ := (Adaptor.hits_iff _ _ _).mp hh
    rw [he]; exact ⟨hv, ht, rfl⟩
  · rw [he]; exact ⟨rfl, rfl, rfl⟩

/-! The fetch of instruction bytes (40_automaton.md R118) -/

section
variable (s : State)

theorem fetchByte_auto : (fetchByte s).2.auto = { s.auto with pc := s.auto.pc + 1 } := by simp [fetchByte]
@[simp] theorem fetchByte_mem : (fetchByte s).2.mem = s.mem := by simp [fetchByte]
@[simp] theorem fetchByte_nodeState : (fetchByte s).2.nodeState = s.nodeState := by simp [fetchByte]
@[simp] theorem fetchByte_nodeWeight : (fetchByte s).2.nodeWeight = s.nodeWeight := by simp [fetchByte]
@[simp] theorem fetchByte_inputs : (fetchByte s).2.inputs = s.inputs := by simp [fetchByte]
@[simp] theorem fetchByte_thereafter : (fetchByte s).2.thereafter = s.thereafter := by simp [fetchByte]
@[simp] theorem fetchByte_handoffWrites : (fetchByte s).2.handoffWrites = s.handoffWrites := by simp [fetchByte]
@[simp] theorem fetchByte_handoffDraws : (fetchByte s).2.handoffDraws = s.handoffDraws := by simp [fetchByte]
@[simp] theorem fetchByte_dfBusy : (fetchByte s).2.dfBusy = s.dfBusy := by simp [fetchByte]
@[simp] theorem fetchByte_events : (fetchByte s).2.events = s.events := by simp [fetchByte]

end

/-- The fetch of `n` bytes changes `pc` and the adaptor, and nothing else. -/
theorem fetchBytes_frame (n : Nat) (s : State) :
    (fetchBytes n s).2 =
      { s with
        auto := { s.auto with pc := s.auto.pc + BitVec.ofNat 26 n }
        adaptor := (fetchBytes n s).2.adaptor } := by
  induction n generalizing s with
  | zero => simp [fetchBytes]
  | succ n ih =>
    rw [fetchBytes, ih]
    simp only [fetchByte_auto, fetchByte_mem, fetchByte_nodeState, fetchByte_nodeWeight, fetchByte_inputs,
      fetchByte_thereafter, fetchByte_handoffWrites, fetchByte_handoffDraws, fetchByte_dfBusy, fetchByte_events]
    have : s.auto.pc + 1 + BitVec.ofNat 26 n = s.auto.pc + BitVec.ofNat 26 (n + 1) := by
      rw [BitVec.add_assoc]; congr 1; apply BitVec.eq_of_toNat_eq; simp; omega
    rw [this]

@[simp] theorem fetchBytes_length (n : Nat) (s : State) : (fetchBytes n s).1.length = n := by
  induction n generalizing s with
  | zero => rfl
  | succ n ih => simp [fetchBytes, ih]

/-! The fan-out (42_configuration.md R129 to R140) -/

theorem mapFrom_get (f : Nat → Byte → Byte) (l : List Byte) (k n : Nat) (h : n < (mapFrom k f l).length) :
    (mapFrom k f l)[n] = f (k + n) (l[n]'(by simpa [mapFrom_length] using h)) := by
  induction l generalizing k n with
  | nil => simp [mapFrom] at h
  | cons b rest ih =>
    cases n with
    | zero => simp [mapFrom]
    | succ n => simp only [mapFrom, List.getElem_cons_succ, ih]; congr 1; omega

@[simp] theorem mapNodes_get (f : Nat → Byte → Byte) (v : Vector Byte Config.numNodes) (n : Nat)
    (h : n < Config.numNodes) : (mapNodes f v)[n] = f n v[n] := by
  simp [mapNodes, mapFrom_get]

section
variable (lanes : Vector Lane 4) (s : State)

@[simp] theorem sinkLanes_auto : (sinkLanes lanes s).auto = s.auto := by unfold sinkLanes; split <;> rfl
@[simp] theorem sinkLanes_adaptor : (sinkLanes lanes s).adaptor = s.adaptor := by unfold sinkLanes; split <;> rfl
@[simp] theorem sinkLanes_mem : (sinkLanes lanes s).mem = s.mem := by unfold sinkLanes; split <;> rfl
@[simp] theorem sinkLanes_inputs : (sinkLanes lanes s).inputs = s.inputs := by unfold sinkLanes; split <;> rfl
@[simp] theorem sinkLanes_thereafter : (sinkLanes lanes s).thereafter = s.thereafter := by
  unfold sinkLanes; split <;> rfl
@[simp] theorem sinkLanes_handoffWrites : (sinkLanes lanes s).handoffWrites = s.handoffWrites := by
  unfold sinkLanes; split <;> rfl
@[simp] theorem sinkLanes_handoffDraws : (sinkLanes lanes s).handoffDraws = s.handoffDraws := by
  unfold sinkLanes; split <;> rfl
@[simp] theorem sinkLanes_dfBusy : (sinkLanes lanes s).dfBusy = s.dfBusy := by unfold sinkLanes; split <;> rfl

end

/-- With no lane enabled, the sink and the log are untouched (R129). -/
@[simp] theorem sinkLanes_off (s : State) : sinkLanes lanesOff s = s := rfl

/-- In a cycle that receives a line every node register goes through the sink, and the writes are observed (R140). -/
theorem sinkLanes_driveLanes (base offset : Nat) (wsel : Bool) (L : Line) (s : State) :
    sinkLanes (driveLanes base offset wsel L) s =
      { s with
        nodeState := mapNodes (sinkState (driveLanes base offset wsel L)) s.nodeState
        nodeWeight := mapNodes (sinkWeight (driveLanes base offset wsel L)) s.nodeWeight
        events := .nodeWrites (nodeWrites (driveLanes base offset wsel L)) :: s.events } := rfl

@[simp] theorem driveLanes_any (base offset : Nat) (wsel : Bool) (L : Line) :
    (driveLanes base offset wsel L).toList.any Lane.en = true := rfl

/-- What the multiplexer gives node `n` in a cycle that receives a line: byte `i` where `n` is the address of lane `i`,
and nothing where it is no lane's (R130, R131, R138). -/
theorem muxNode_driveLanes (base offset : Nat) (wsel : Bool) (L : Line) (n : Nat)
    (hb : nodeAddr base offset 3 < 64) :
    muxNode (driveLanes base offset wsel L) n =
      if h : nodeAddr base offset 0 ≤ n ∧ n < nodeAddr base offset 0 + 4 then
        ⟨true, L[n - nodeAddr base offset 0], wsel⟩
      else NodeConfig.off := by
  have e : ∀ i, i < 4 → (BitVec.ofNat 6 (nodeAddr base offset i)).toNat = nodeAddr base offset 0 + i := by
    intro i hi
    simp only [nodeAddr, BitVec.toNat_ofNat] at hb ⊢
    omega
  have e0 := e 0 (by decide)
  have e1 := e 1 (by decide)
  have e2 := e 2 (by decide)
  have e3 := e 3 (by decide)
  unfold muxNode driveLanes driveLane
  simp only [Vector.toList_mk, List.find?_cons, Bool.true_and, e0, e1, e2, e3, List.find?_nil]
  by_cases h : nodeAddr base offset 0 ≤ n ∧ n < nodeAddr base offset 0 + 4
  · obtain ⟨j, rfl⟩ : ∃ j, n = nodeAddr base offset 0 + j := ⟨n - nodeAddr base offset 0, by omega⟩
    have hj : j < 4 := by omega
    have k1 : (nodeAddr base offset 0 == nodeAddr base offset 0 + 1) = false := by simp
    have k2 : (nodeAddr base offset 0 == nodeAddr base offset 0 + 2) = false := by simp
    have k3 : (nodeAddr base offset 0 == nodeAddr base offset 0 + 3) = false := by simp
    rcases j with _ | _ | _ | _ | j
    · simp
    · simp [k1]
    · simp [k1, k2]
    · simp [k1, k2, k3]
    · omega
  · have h0 : (nodeAddr base offset 0 == n) = false := by simp; omega
    have h1 : (nodeAddr base offset 0 + 1 == n) = false := by simp; omega
    have h2 : (nodeAddr base offset 0 + 2 == n) = false := by simp; omega
    have h3 : (nodeAddr base offset 0 + 3 == n) = false := by simp; omega
    simp [h0, h1, h2, h3, h]

/-! One line of a transfer (42_configuration.md R132, R133) -/

section
variable (base : Nat) (wsel : Bool) (s : State)

theorem transferLine_auto :
    (transferLine base wsel s).auto = { s.auto with offset := s.auto.offset + 1 } := by simp [transferLine]

theorem transferLine_adaptor : (transferLine base wsel s).adaptor =
    Adaptor.filled (lineAt s.auto.addr s.auto.offset) (s.mem.readLine (lineAt s.auto.addr s.auto.offset)) := by
  simp [transferLine, requestLine_bulk]

theorem transferLine_nodeState : (transferLine base wsel s).nodeState =
    mapNodes (sinkState (driveLanes base s.auto.offset.toNat wsel
      (s.mem.readLine (lineAt s.auto.addr s.auto.offset)))) s.nodeState := by
  simp [transferLine, requestLine_bulk, sinkLanes_driveLanes]

theorem transferLine_nodeWeight : (transferLine base wsel s).nodeWeight =
    mapNodes (sinkWeight (driveLanes base s.auto.offset.toNat wsel
      (s.mem.readLine (lineAt s.auto.addr s.auto.offset)))) s.nodeWeight := by
  simp [transferLine, requestLine_bulk, sinkLanes_driveLanes]

@[simp] theorem transferLine_mem : (transferLine base wsel s).mem = s.mem := by simp [transferLine]
@[simp] theorem transferLine_inputs : (transferLine base wsel s).inputs = s.inputs := by simp [transferLine]
@[simp] theorem transferLine_thereafter : (transferLine base wsel s).thereafter = s.thereafter := by simp [transferLine]
@[simp] theorem transferLine_handoffWrites : (transferLine base wsel s).handoffWrites = s.handoffWrites := by
  simp [transferLine]
@[simp] theorem transferLine_handoffDraws : (transferLine base wsel s).handoffDraws = s.handoffDraws := by
  simp [transferLine]
@[simp] theorem transferLine_dfBusy : (transferLine base wsel s).dfBusy = s.dfBusy := by simp [transferLine]

end

/-! The parameters of the reference configuration (00_scope.md R13, R14, R16) -/

@[simp] theorem itersS_eq : itersS = 16 := rfl
@[simp] theorem stateNodeBase_eq : stateNodeBase = 0 := rfl
@[simp] theorem params_itersW : params.itersW = 8 := rfl
@[simp] theorem params_weightNodeBase : params.weightNodeBase = 31 := rfl
@[simp] theorem params_debugLines : params.debugLines = 24 := rfl
@[simp] theorem params_numMults : params.numMults = 32 := rfl

/-! The canonical form is kept by everything that writes `M`. -/

theorem debugAccept_wf (P : Params) {s : State} (h : s.mem.wf = true) : (debugAccept P s).mem.wf = true :=
  Memory.wf_writeLine h _ _

@[simp] theorem presentHandoff_mem (s : State) : (presentHandoff s).mem = s.mem := by
  unfold presentHandoff
  split <;> rfl

theorem finishHandoff_wf {s : State} (h : s.mem.wf = true) : (finishHandoff s).mem.wf = true :=
  Memory.wf_writeLines ((presentHandoff_mem s).symm ▸ h) _

theorem storeBytes_wf (bytes : List Byte) (a : ByteAddr) {m : Memory} (h : m.wf = true) :
    (storeBytes bytes a m).wf = true := by
  induction bytes generalizing a m with
  | nil => exact h
  | cons b rest ih => exact ih (a + 1) (Memory.wf_write h a.isLt b)

end Sys2Proof.Machine
end

