-- ==== Sys2Proof/Laws/PerInstr.lean ====
section
/-! SUPPORT. What is said of every instruction, one lemma per constructor. The family `EncodedShape`: an instruction's
bytes are its opcode's code and as many operand bytes as its arity says (30_encoding.md R85, R92). -/

namespace Sys2Proof.Laws.EncodedShape

def Statement (i : Instr) : Prop :=
  ∃ operands, encode i = i.opcode.code :: operands ∧ operands.length = i.opcode.arity

theorem reset : Statement .reset := ⟨_, rfl, rfl⟩

theorem configureStates (line : LineAddr) : Statement (.configureStates line) := ⟨_, rfl, rfl⟩

theorem configureWeights (line : LineAddr) : Statement (.configureWeights line) := ⟨_, rfl, rfl⟩

theorem loadFeatures (pbuf lcount : Byte) (line : LineAddr) : Statement (.loadFeatures pbuf lcount line) :=
  ⟨_, rfl, rfl⟩

theorem storeFeatures (pbuf lcount : Byte) (line : LineAddr) : Statement (.storeFeatures pbuf lcount line) :=
  ⟨_, rfl, rfl⟩

theorem run (len : BitVec 24) : Statement (.run len) := ⟨_, rfl, rfl⟩

theorem debug (line : LineAddr) : Statement (.debug line) := ⟨_, rfl, rfl⟩

end Sys2Proof.Laws.EncodedShape
end

