-- ==== Sys2Proof/Tests/Slice0.lean ====
section
/-! SUPPORT. The model's own tests. Every expected value is taken from the spec (the rule or the vector of
95_test_vectors.md that the comment names), and each step test looks at a few fields after one step. The last part shows,
for each obligation with hypotheses, a concrete state that meets them. -/

namespace Sys2Proof.Machine.Tests

/-- Whether an outcome is a next state with the property. -/
def nextHas (o : Host.Outcome State Fault Refusal) (p : State → Bool) : Bool :=
  match o with
  | .next t => p t
  | .fault _ => false
  | .refused _ => false

/-- The sink of 95 section 2.8: `S[n] = n mod 3`. -/
def sinkS : Vector Byte Config.numNodes := Vector.ofFn fun n => BitVec.ofNat 8 (n.val % 3)

/-- The sink of 95 section 2.8: `W[31 + m] = enc8(m - 16)`. -/
def sinkW : Vector Byte Config.numNodes := Vector.ofFn fun n => enc8 ((n.val : Int) - 31 - 16)

/-- The cells that hold the bytes from address `a` on. -/
def cells (a : Nat) : List Byte → Memory
  | [] => []
  | b :: rest => (a, b) :: cells (a + 1) rest

/-- A small state in FETCH_OP at `pc = 0` with the given cells, the sink of 95 section 2.8, and a dataflow core that
writes nothing in its next hand-off. -/
def base (mem : Memory) : State where
  auto := { Automaton.reset with st := .fetchOp }
  adaptor := Adaptor.reset
  mem := mem
  nodeState := sinkS
  nodeWeight := sinkW
  inputs := []
  thereafter := .fair
  handoffWrites := [[]]
  handoffDraws := 0
  dfBusy := false
  events := []

/-- A state in the given automaton state, with the opcode decoded and `k` of `n` operands accepted. -/
def mid (mem : Memory) (st : AutoState) (op : Byte) (n k : BitVec 3) (offset : BitVec 5) (wrWait : Bool) : State :=
  { base mem with
    auto := { Automaton.reset with
      st := st
      pc := 4
      opcode := op
      nParams := n
      paramCnt := k
      addr := 200
      offset := offset
      wrWait := wrWait } }

/-- The state in an environment that drives the same inputs in every cycle. -/
def steady (inp : Inputs) (s : State) : State := { s with thereafter := .steady inp }

/-! ## Decoding: words written out from the spec's encodings (30_encoding.md R86 to R88, R105; 95 section 2.2) -/

theorem test_decode_reset : decode [0b00000001] = .ok (.reset, []) := by decide

theorem test_decode_configureStates :
    decode [0b00000010, 0b00000001, 0b00000010, 0b00000011] = .ok (.configureStates 0x030201, []) := by decide

theorem test_decode_configureWeights :
    decode [0b00000011, 0b11111111, 0b11111111, 0b11111111] = .ok (.configureWeights 0xFFFFFF, []) := by decide

theorem test_decode_loadFeatures :
    decode [0b00000100, 0b00010000, 0b00000000, 0b00000000, 0b00000011, 0b00000111] =
      .ok (.loadFeatures 3 7 0x000010, []) := by decide

theorem test_decode_storeFeatures :
    decode [0b00000101, 0b00000000, 0b00000010, 0b00000000, 0b00000001, 0b00000011] =
      .ok (.storeFeatures 1 3 0x000200, []) := by decide

theorem test_decode_run :
    decode [0b00000110, 0b11111111, 0b00000000, 0b00000000] = .ok (.run 255, []) := by decide

theorem test_decode_debug :
    decode [0b00000111, 0b11001000, 0b00000000, 0b00000000] = .ok (.debug 200, []) := by decide

/-- 95 section 2.1: 0x82 is illegal although its low bits are 0x02. -/
theorem test_decode_illegal :
    decode [0x82, 0, 0, 0] = .error (.unknownOpcode 0x82) ∧ decode [0x08] = .error (.unknownOpcode 0x08) ∧
      decode [0x00] = .error (.unknownOpcode 0x00) := by decide

theorem test_decode_truncated : decode [0x02, 0x01] = .error .truncated := by decide

/-- The number of a table row counts the first byte as its low bits: `07 C8 00 00`. -/
theorem test_decodeTableWord : decodeTableWord 32 0x0000C807 = some (.debug 200) ∧ decodeTableWord 8 0x04 =
    some (.loadFeatures 0 0 0) ∧ decodeTableWord 8 0 = none := by decide

theorem test_encode_loadFeatures : encode (.loadFeatures 2 5 256) = [0x04, 0x00, 0x01, 0x00, 0x02, 0x05] := by decide

/-! ## What the host's builder refuses (R103, R104), and parameters that do not fit their widths (R130) -/

theorem test_wellFormed_codes_count : Operation.wellFormed 32 (.configureStates (List.replicate 62 0)) = false := by
  decide

theorem test_wellFormed_weights_count : Operation.wellFormed 32 (.configureWeights (List.replicate 31 0)) = false := by
  decide

theorem test_wellFormed_weight_high :
    Operation.wellFormed 32 (.configureWeights (128 :: List.replicate 31 0)) = false := by decide

theorem test_wellFormed_weight_low :
    Operation.wellFormed 32 (.configureWeights (-129 :: List.replicate 31 0)) = false := by decide

theorem test_wellFormed_accepts :
    Operation.wellFormed 32 (.configureWeights (-128 :: 127 :: List.replicate 30 0)) = true := by decide

theorem test_params_wf : params.wf = true ∧ assemblerParams.wf = true := by decide

theorem test_params_wf_adders : Params.wf ⟨64, 0, 0⟩ = false := by decide

theorem test_params_wf_node_address : Params.wf ⟨31, 31, 9⟩ = false := by decide

theorem test_params_wf_offset : Params.wf ⟨31, 0, 16⟩ = false := by decide

/-- R101, R177: a program whose payloads or instructions overflow their region is refused. -/
theorem test_assemble_overflow :
    assemble .reference (List.replicate 128 (.run 1)) = none := by decide +kernel

/-- R103, R154: a target the builder does not support is refused, whatever the program; the reference and the alternative
parameters are supported. -/
theorem test_assemble_targets : assemble ⟨4, 63, params⟩ [.run 1] = none ∧ assemble ⟨3, 64, params⟩ [.run 1] = none ∧
    assemble ⟨3, 63, ⟨64, 0, 0⟩⟩ [.run 1] = none ∧ assemble ⟨3, 63, ⟨31, 31, 9⟩⟩ [.run 1] = none ∧
    (assemble .reference [.run 1]).isSome = true ∧ (assemble ⟨3, 63, assemblerParams⟩ [.run 1]).isSome = true := by
  decide +kernel

/-- R103: an operation outside the seven is a build error. -/
theorem test_assemble_unrecognised : assemble .reference [.run 1, .unrecognised "PowerDown"] = none := by
  decide +kernel

/-! ## Weights and lines (R102, 95 W2; R55) -/

theorem test_enc8 : enc8 (-1) = 0xFF ∧ enc8 (-128) = 0x80 ∧ enc8 127 = 0x7F ∧ enc8 (-5) = 0xFB := by decide

theorem test_dec8 : dec8 0xFF = -1 ∧ dec8 0x80 = -128 ∧ dec8 0x7F = 127 ∧ dec8 0x0C = 12 := by decide

theorem test_lineOfWord : lineOfWord 0x04030201 = #v[0x01, 0x02, 0x03, 0x04] := by decide

/-! ## One step per instruction -/

/-- R125: `Reset` at `pc = 4` gives RESET with `pc = 0`. -/
theorem test_step_reset :
    nextHas (step { base [(4, 0x01)] with auto := { Automaton.reset with st := .fetchOp, pc := 4, addr := 0x80 } })
      (fun t => t.auto == Automaton.reset && !t.adaptor.cValid && t.adaptor.cTag == 1) = true := by decide +kernel

/-- R127: byte FF at `pc = 5` takes the reset action. -/
theorem test_step_unknown :
    nextHas (step { base [(5, 0xFF)] with auto := { Automaton.reset with st := .fetchOp, pc := 5, addr := 0x80 } })
      (fun t => t.auto == Automaton.reset && !t.adaptor.cValid) = true := by decide +kernel

/-- 95 CS1, CS2: `ConfigureStates 128` with `M(128) = [02,00,01,00]` and `M(143) = [02,00,01,05]`; byte 05 is dropped. -/
theorem test_step_configureStates :
    nextHas (step (base (cells 0 [2, 0x80, 0, 0] ++ cells 512 ([2, 0, 1] ++ List.replicate 57 0 ++ [2, 0, 1, 5]))))
      (fun t => t.nodeState[0] == 2 && t.nodeState[1] == 0 && t.nodeState[2] == 1 && t.nodeState[3] == 0 &&
        t.nodeState[60] == 2 && t.nodeState[62] == 1 && t.nodeWeight[31] == 0xF0 && t.auto.pc == 4 &&
        t.adaptor.cTag == 143) = true := by decide +kernel

/-- 95 CS4: the lines of a transfer wrap to line 0. -/
theorem test_step_configureStates_wrap :
    nextHas (step (base [(0, 0x02), (1, 0xF8), (2, 0xFF), (3, 0xFF), (67108832, 0x09)]))
      (fun t => t.nodeState[0] == 9 && t.nodeState[32] == 0x02 && t.nodeState[33] == 0xF8 && t.adaptor.cTag == 7) =
      true := by decide +kernel

/-- 95 CW1: `ConfigureWeights 144` with `M(144) = [FB,0C,00,FF]`. -/
theorem test_step_configureWeights :
    nextHas (step (base (cells 0 [3, 0x90, 0, 0] ++ cells 576 [0xFB, 0x0C, 0, 0xFF])))
      (fun t => dec8 t.nodeWeight[31] == -5 && dec8 t.nodeWeight[32] == 12 && dec8 t.nodeWeight[33] == 0 &&
        dec8 t.nodeWeight[34] == -1 && t.nodeState[34] == 1 && t.nodeWeight[30] == sinkW[30]) = true := by
  decide +kernel

/-- 95 CW4, P5 (b): under the alternative parameters, node 28 receives the first byte and node 62 the 35th. -/
theorem test_alternative_parameters :
    (let t := finishConfigureWeights assemblerParams
      (stage .configureWeights .configureWeights 128 (base (cells 512 [0, 0, 0, 1] ++ [(546, 0x20)])))
     t.nodeWeight[28] == 0 && t.nodeWeight[31] == 1 && t.nodeWeight[62] == 0x20 && t.adaptor.cTag == 136) = true := by
  decide +kernel

/-- 95 H1: `LoadFeatures 2, 5, 256`. -/
theorem test_step_loadFeatures :
    nextHas (step (base (cells 0 [4, 0, 1, 0, 2, 5])))
      (fun t => t.events == [.handOff 0x04 256 2 5] && t.auto.pc == 6 && t.auto.st == .fetchOp &&
        t.adaptor.cTag == 1) = true := by decide +kernel

/-- 95 H2: `StoreFeatures 1, 3, 512`. -/
theorem test_step_storeFeatures :
    nextHas (step (base (cells 0 [5, 0, 2, 0, 1, 3])))
      (fun t => t.events == [.handOff 0x05 512 1 3] && t.auto.pbuf == 1 && t.auto.lcount == 3) = true := by
  decide +kernel

/-- 95 H3: `Run 255` hands over its length, with `pbuf` and `lcount` retained. -/
theorem test_step_run :
    nextHas (step { base (cells 0 [6, 0xFF, 0, 0]) with
        auto := { Automaton.reset with st := .fetchOp, pbuf := 1, lcount := 3 } })
      (fun t => t.events == [.handOff 0x06 255 1 3] && t.auto.pc == 4) = true := by decide +kernel

/-- 95 D-b to D-g: `Debug 200`. -/
theorem test_step_debug :
    nextHas (step (base (cells 0 [7, 0xC8, 0, 0])))
      (fun t => t.mem.readLine 200 == #v[0x00, 0x01, 0x02, 0x00] && t.mem.readLine 215 == #v[0x00, 0x01, 0x02, 0x00] &&
        t.mem.readLine 216 == #v[0xF0, 0xF1, 0xF2, 0xF3] && t.mem.readLine 223 == #v[0x0C, 0x0D, 0x0E, 0x0F] &&
        !t.adaptor.cValid && t.auto.pc == 4) = true := by decide +kernel

/-- 95 D-i: `Debug 0xFFFFF0` wraps to line 0 and overwrites the program's own line. -/
theorem test_step_debug_wrap :
    nextHas (step (base [(0, 0x07), (1, 0xF0), (2, 0xFF), (3, 0xFF)]))
      (fun t => t.mem.readLine 0 == #v[0xF0, 0xF1, 0xF2, 0xF3] && t.mem.readLine 0xFFFFF0 == #v[0x00, 0x01, 0x02, 0x00]) =
      true := by decide +kernel

/-- 95 section 2.9: at the last byte address the operands are read from bytes 0, 1 and 2. -/
theorem test_step_pc_wraps :
    nextHas (step { base [(0, 0x05), (1, 0), (2, 0), (67108863, 0x06)] with
        auto := { Automaton.reset with st := .fetchOp, pc := 0x3FFFFFF } })
      (fun t => t.auto.addr == 5 && t.auto.pc == 3) = true := by decide +kernel

/-! ## One clock cycle (95 sections 2.3 to 2.8) -/

/-- 95 A1, A5: a miss goes to WAIT when the memory accepts at once, and to ISSUE when it does not. -/
theorem test_clock_miss :
    nextHas (clock (referenceInputs false (base [])) (base [])) (fun t => t.adaptor.phase == .wait) = true ∧
    nextHas (clock Inputs.idle (base [])) (fun t => t.adaptor.phase == .issue && t.auto == (base []).auto) = true := by
  decide +kernel

/-- 95 A8: the reset action clears the cache in the cycle the line arrives. -/
theorem test_clock_clear_wins :
    nextHas (clock { Inputs.idle with rdValid := true }
        { base (cells 0 [1, 0, 0, 0]) with adaptor := { Adaptor.reset with phase := .wait } })
      (fun t => !t.adaptor.cValid && t.adaptor.cData == #v[1, 0, 0, 0] && t.auto.st == .reset) = true := by
  decide +kernel

/-- 95 W5, row 2: `rst` in CONFIGURE_STATES; no fan-out in the cycle. -/
theorem test_clock_rst :
    nextHas (clock { Inputs.idle with rst := true, rdValid := true }
        { base [(0, 0x07)] with
          auto := { Automaton.reset with st := .configureStates, offset := 9 },
          adaptor := { Adaptor.reset with phase := .wait, aLine := 9 } })
      (fun t => t.auto == Automaton.reset && t.adaptor == Adaptor.reset && t.nodeState == sinkS) = true := by
  decide +kernel

/-- 95 D-j: a DEBUG line that is not accepted leaves `offset` and `wr_wait`. -/
theorem test_clock_debug_not_accepted :
    nextHas (clock Inputs.idle { base [] with auto := { Automaton.reset with st := .debug, opcode := 7, addr := 200 } })
      (fun t => !t.auto.wrWait && t.auto.offset == 0 && t.mem == []) = true := by decide +kernel

/-- 95 P3: `Run` with `df_done = 1` in its first cycle leaves `M` as it was, and the dataflow core cannot write in that
cycle (R143). -/
theorem test_clock_run_done_at_once :
    nextHas (clock { Inputs.idle with dfDone := true } (mid [(0, 0x06)] .run 0x06 3 3 0 false))
      (fun t => t.mem == [(0, 0x06)] && t.auto.st == .fetchOp) = true ∧
    clock { Inputs.idle with dfDone := true, dfWrites := [⟨9, #v[1, 2, 3, 4]⟩] } (mid [] .run 0x06 3 3 0 false) =
      .refused .dataflowWriteOutsideHandoff := ⟨by decide +kernel, rfl⟩

/-- R158: a dataflow core that never raises `df_done` stalls CORE: 3 steps later it is still in RUN. -/
theorem test_handoff_hangs :
    nextHas (Host.Core.run Sys2Proof.core 3 (steady Inputs.idle (mid [] .run 0x06 3 3 0 false)))
      (fun t => t.auto.st == .run) = true := by decide +kernel

/-- R173: with nothing scripted, the state after reset waits for `start`. -/
theorem test_step_reset_state_waits : nextHas (step State.reset) (fun t => t.auto.st == .reset) = true := by
  decide +kernel

/-- The host's placed word is the first instruction after reset. -/
theorem test_withFetchWord :
    nextHas (step (State.reset.withFetchWord 32 0x0000FF06)) (fun t => t.auto.opcode == 6 && t.auto.addr == 255) = true ∧
    nextHas (step (State.reset.withFetchWord 32 0x0000C807)) (fun t => t.auto.opcode == 7 && t.auto.pc == 4) = true ∧
    nextHas (step (State.reset.withFetchWord 32 0x00000002)) (fun t => t.nodeState[0] == 2) = true := by
  decide +kernel

/-! ## Witnesses: for each obligation with hypotheses, a state and operands that meet them together -/

theorem isNext {o : Host.Outcome State Fault Refusal} (h : nextHas o (fun _ => true) = true) : ∃ t, o = .next t := by
  cases o with
  | next t => exact ⟨t, rfl⟩
  | fault f => cases h
  | refused r => cases h

/-- The state with a fetch of line `l` outstanding. -/
def fetching (phase : FetchPhase) (l : LineAddr) (s : State) : State :=
  { s with adaptor := { s.adaptor with phase := phase, aLine := l } }

/-- The state with line `l` of memory cached. -/
def caching (l : LineAddr) (s : State) : State :=
  { s with adaptor := { s.adaptor with cValid := true, cTag := l, cData := s.mem.readLine l } }

/-- Legal states: FETCH_OP, at a miss, with a hit, with the fetch issued and with it accepted. -/
theorem inv_fetchOp : Inv (base [(0, 0x07), (1, 0xC8)]) := ⟨by decide, by decide, by decide, by decide⟩

theorem inv_hit : Inv (caching 0 (base [(0, 0x07), (1, 0xC8)])) := ⟨by decide, by decide, by decide, by decide⟩

theorem inv_issue : Inv (fetching .issue 0 (base [])) := ⟨by decide, by decide, by decide, by decide⟩

theorem inv_wait : Inv (fetching .wait 0 (base [])) := ⟨by decide, by decide, by decide, by decide⟩

theorem inv_idle_outside_reset : Inv (mid [] .run 0x06 3 3 0 false) := ⟨by decide, by decide, by decide, by decide⟩

theorem inv_params_first : Inv (mid [] .fetchParams 0x02 3 0 0 false) := ⟨by decide, by decide, by decide, by decide⟩

theorem inv_params_last_byte : Inv (caching 1 (mid [] .fetchParams 0x02 3 2 0 false)) :=
  ⟨by decide, by decide, by decide, by decide⟩

theorem inv_params_all : Inv (mid [] .fetchParams 0x02 3 3 0 false) := ⟨by decide, by decide, by decide, by decide⟩

theorem inv_states : Inv (mid [] .configureStates 0x02 3 3 0 false) := ⟨by decide, by decide, by decide, by decide⟩

theorem inv_weights : Inv (mid [] .configureWeights 0x03 3 3 0 false) := ⟨by decide, by decide, by decide, by decide⟩

theorem inv_debug : Inv (mid [] .debug 0x07 3 3 0 false) := ⟨by decide, by decide, by decide, by decide⟩

theorem inv_debug_last : Inv (mid [] .debug 0x07 3 3 23 true) := ⟨by decide, by decide, by decide, by decide⟩

theorem witness_RstCycle : ({ Inputs.idle with rst := true }).rst = true ∧
    Admitted { Inputs.idle with rst := true } (base []) := by decide

theorem witness_DecodedBytes : decode [0x07, 0xC8, 0x00, 0x00, 0x01] = .ok (.debug 200, [0x01]) := by decide

theorem witness_StepRuns : (base (cells 0 [7, 0xC8, 0, 0, 0, 0])).inputs = [] ∧
    (base (cells 0 [7, 0xC8, 0, 0, 0, 0])).thereafter = .fair ∧
    (base (cells 0 [7, 0xC8, 0, 0, 0, 0])).auto.st = .fetchOp ∧
    decode (fetchBytes 6 (base (cells 0 [7, 0xC8, 0, 0, 0, 0]))).1 = .ok (.debug 200, [0x00, 0x00]) := by decide

theorem witness_StepRuns_scripted : ({ base [] with inputs := [Inputs.idle] } : State).inputs = Inputs.idle :: [] := rfl

theorem witness_StepRuns_unscripted : (steady Inputs.idle (base [])).inputs = [] ∧
    (steady Inputs.idle (base [])).thereafter = .steady Inputs.idle ∧
    ({ base [] with thereafter := .drawn 3 } : State).inputs = [] ∧
    ({ base [] with thereafter := .drawn 3 } : State).thereafter = .drawn 3 := ⟨rfl, rfl, rfl, rfl⟩

/-- The bytes 0x00, 0x08 and 0xFF: the ends of the two ranges of R93. -/
theorem witness_StepOnUnknown : (base []).inputs = [] ∧ (base []).thereafter = .fair ∧ (base []).auto.st = .fetchOp ∧
    (fetchByte (base [(0, 0x00)])).1.toNat = 0 ∧ (fetchByte (base [(0, 0x08)])).1.toNat = 8 ∧
    (fetchByte (base [(0, 0xFF)])).1.toNat = 255 := by decide

theorem witness_FetchPresents : Coherent (caching 0 (base (cells 0 [7, 0, 0, 0]))) ∧ Coherent (base [(0, 0x07)]) := by decide

theorem witness_CachedLine : (caching 0 (base [(0, 0x07)])).adaptor.phase = .idle ∧
    (caching 0 (base [(0, 0x07)])).adaptor.cValid = true ∧
    (caching 0 (base [(0, 0x07)])).adaptor.cTag = lineOf (caching 0 (base [(0, 0x07)])).auto.pc := by decide

theorem witness_DebugWrites : (base [(0, 0x07), (67108863, 0x01)]).mem.wf = true := by decide

theorem witness_Snapshot : (0 : Nat) < 16 ∧ 4 * 15 + 2 < Config.numNodes ∧ ¬ 4 * 15 + 3 < Config.numNodes ∧
    31 + 4 * (16 - 16) + 0 < Config.numNodes ∧ 31 + 4 * (23 - 16) + 3 < Config.numNodes := by decide

theorem witness_SnapshotReloads : ∃ t u : State, exec (.debug 200) (base []) = .next t ∧ u.mem = t.mem :=
  ⟨_, _, rfl, rfl⟩

theorem witness_StateCodes : (2 :: List.replicate 61 0 ++ [9] : List Byte).length = Config.numNodes ∧
    ∀ (n : Nat) (h : n < (statePayload (2 :: List.replicate 61 0 ++ [9])).length),
      payloadByte (base (cells 512 (2 :: List.replicate 61 0 ++ [9, 0]))).mem 128 n =
        (statePayload (2 :: List.replicate 61 0 ++ [9]))[n] := by
  decide +kernel

theorem witness_Weights : (-128 :: List.replicate 30 0 ++ [127] : List Int).length = 32 ∧
    (∀ w ∈ (-128 :: List.replicate 30 0 ++ [127] : List Int), weightInRange w = true) ∧
    ∀ (n : Nat) (h : n < (weightPayload (-128 :: List.replicate 30 0 ++ [127])).length),
      payloadByte (base (cells 576 (0x80 :: List.replicate 30 0 ++ [0x7F]))).mem 144 n =
        (weightPayload (-128 :: List.replicate 30 0 ++ [127]))[n] := by decide +kernel

theorem witness_AssemblerLayout : (5 :: List.replicate 30 0 ++ [-1] : List Int).length = 32 ∧
    ∀ (n : Nat) (h : n < (assemblerWeightPayload (5 :: List.replicate 30 0 ++ [-1])).length),
      payloadByte (base (cells 576 ([0, 0, 0, 5] ++ List.replicate 30 0 ++ [0xFF, 0]))).mem 144 n =
        (assemblerWeightPayload (5 :: List.replicate 30 0 ++ [-1]))[n] := by decide +kernel

theorem witness_WeightCodec : weightInRange (-128) = true ∧ weightInRange (-1) = true ∧ weightInRange 0 = true ∧
    weightInRange 127 = true ∧ weightInRange (-129) = false ∧ weightInRange 128 = false := by decide

theorem witness_CacheHits : (⟨true, 3, false⟩ : Request).req = true ∧
    (caching 0 (base [])).adaptor.phase = .idle ∧ (caching 0 (base [])).adaptor.cValid = true ∧
    (caching 0 (base [])).adaptor.cTag = lineOf 3 ∧ (⟨true, 3, true⟩ : Request).bulk = true := by decide

theorem witness_LineFetch : Adaptor.reset.phase = .idle ∧ Adaptor.reset.hits 0 false = false ∧
    (fetching .issue 0 (base [])).adaptor.phase = .issue ∧ (fetching .wait 0 (base [])).adaptor.phase = .wait := by
  decide

theorem witness_ByteReady : Inv (fetching .wait 0 (base [])) ∧ Inv (fetching .issue 0 (base [])) ∧
    Inv (base [(0, 0x07), (1, 0xC8)]) ∧ Inputs.idle.rst = false := ⟨inv_wait, inv_issue, inv_fetchOp, rfl⟩

theorem witness_CacheClearWins : ({ Inputs.idle with rdValid := true }).rst = false ∧
    Admitted { Inputs.idle with rdValid := true } (fetching .wait 0 (base [(0, 0x01)])) ∧
    ({ Inputs.idle with rdValid := true }).rdValid = true ∧
    (fetching .wait 0 (base [(0, 0x01)])).auto.st = .fetchOp ∧
    (fetching .wait 0 (base [(0, 0x01)])).adaptor.phase = .wait ∧
    (fetching .wait 0 (base [(0, 0x01)])).adaptor.aLine = lineOf (fetching .wait 0 (base [(0, 0x01)])).auto.pc ∧
    execState (memByte (fetching .wait 0 (base [(0, 0x01)])).mem 0) = none := by decide

theorem witness_RequestIsHeld : (∃ t, clock Inputs.idle (base []) = .next t) ∧
    (request params (base []).auto).req = true ∧ (adaptorAnswer Inputs.idle (base [])).byteReady = false :=
  ⟨isNext (by decide), by decide, by decide⟩

/-- The recognised opcodes at the ends of their range, and one with five operands. -/
theorem witness_FetchOpDecodes : Admitted Inputs.idle (caching 0 (base [])) ∧
    ∀ b ∈ ([2, 4, 7] : List Byte), (caching 0 (base [(0, b)])).auto.st = .fetchOp ∧
    accepts Inputs.idle (caching 0 (base [(0, b)])) = true ∧
    acceptedByte Inputs.idle (caching 0 (base [(0, b)])) = b := by decide

/-- `Reset`, and the illegal bytes at the ends of their ranges. -/
theorem witness_FetchOpResets : Admitted Inputs.idle (caching 0 (base [])) ∧
    ∀ b ∈ ([0, 1, 8, 255] : List Byte), (caching 0 (base [(0, b)])).auto.st = .fetchOp ∧
    accepts Inputs.idle (caching 0 (base [(0, b)])) = true ∧
    acceptedByte Inputs.idle (caching 0 (base [(0, b)])) = b := by decide

theorem witness_OperandByte : ∀ k < 5, (mid [] .fetchParams 0x04 5 (BitVec.ofNat 3 k) 0 false).auto.paramCnt.toNat = k := by
  decide

theorem witness_FetchParams : (Inv (caching 1 (mid [] .fetchParams 0x02 3 2 0 false)) ∧
      accepts Inputs.idle (caching 1 (mid [] .fetchParams 0x02 3 2 0 false)) = true) ∧
    (Inv (mid [] .fetchParams 0x02 3 0 0 false) ∧
      accepts Inputs.idle (mid [] .fetchParams 0x02 3 0 0 false) = false) ∧
    Inv (mid [] .fetchParams 0x02 3 3 0 false) :=
  ⟨⟨inv_params_last_byte, by decide⟩, ⟨inv_params_first, by decide⟩, inv_params_all⟩

theorem witness_Handoff : (mid [] .loadFeatures 0x04 5 5 0 false).auto.st.isHandoff = true ∧
    (mid [] .storeFeatures 0x05 5 5 0 false).auto.st.isHandoff = true ∧
    (mid [] .run 0x06 3 3 0 false).auto.st.isHandoff = true ∧
    (mid [] .run 0x06 3 3 0 false).adaptor.phase = .idle ∧
    Admitted { Inputs.idle with dfWrites := [⟨9, #v[1, 2, 3, 4]⟩] } (mid [] .run 0x06 3 3 0 false) ∧
    Admitted { Inputs.idle with dfDone := true } (mid [] .run 0x06 3 3 0 false) := by decide

theorem witness_DebugCycle : (mid [] .debug 0x07 3 3 0 false).auto.offset.toNat ≠ 24 ∧
    (mid [] .debug 0x07 3 3 23 true).auto.offset.toNat ≠ 24 ∧ (mid [] .debug 0x07 3 3 23 true).auto.st = .debug ∧
    (mid [] .debug 0x07 3 3 23 true).auto.wrWait = true ∧ (mid [] .debug 0x07 3 3 0 false).auto.wrWait = false := by
  decide

theorem witness_WriteIsHeld : (∃ t, clock Inputs.idle (mid [] .debug 0x07 3 3 0 false) = .next t) ∧
    (outputs Inputs.idle (mid [] .debug 0x07 3 3 0 false)).wrReq = true ∧ Inputs.idle.wrReady = false :=
  ⟨isNext (by decide), by decide, rfl⟩

theorem witness_Start : State.reset.auto.st = .reset ∧ State.reset.adaptor.phase = .idle ∧
    Admitted { Inputs.idle with hostWrites := [⟨0, #v[1, 0, 0, 0]⟩] } State.reset ∧
    Admitted { Inputs.idle with start := true } State.reset ∧
    (base []).auto.st ≠ .reset := ⟨rfl, rfl, by decide, by decide, by decide⟩

/-- Every transition of R120 but the one of `rst` (`test_clock_rst`) is taken by some cycle. -/
theorem witness_Transitions :
    nextHas (clock { Inputs.idle with start := true } { base [] with auto := Automaton.reset })
      (fun t => t.auto.st == .fetchOp) = true ∧
    nextHas (clock Inputs.idle (caching 0 (base [(0, 0x02)]))) (fun t => t.auto.st == .fetchParams) = true ∧
    nextHas (clock Inputs.idle (caching 0 (base [(0, 0x08)]))) (fun t => t.auto.st == .reset) = true ∧
    nextHas (clock Inputs.idle (mid [] .fetchParams 0x05 5 5 0 false)) (fun t => t.auto.st == .storeFeatures) = true ∧
    nextHas (clock Inputs.idle (mid [] .configureStates 0x02 3 3 16 false)) (fun t => t.auto.st == .fetchOp) = true ∧
    nextHas (clock Inputs.idle (mid [] .configureWeights 0x03 3 3 8 false)) (fun t => t.auto.st == .fetchOp) = true ∧
    nextHas (clock { Inputs.idle with dfDone := true } (mid [] .run 0x06 3 3 0 false))
      (fun t => t.auto.st == .fetchOp) = true ∧
    nextHas (clock Inputs.idle (mid [] .debug 0x07 3 3 24 false)) (fun t => t.auto.st == .fetchOp) = true := by
  decide +kernel

/-- Each wait of R158. -/
theorem witness_Waits : (adaptorAnswer Inputs.idle (mid [] .configureStates 0x02 3 3 15 false)).byteReady = false ∧
    (request params (mid [] .configureStates 0x02 3 3 15 false).auto).req = true ∧
    (∃ t, clock Inputs.idle (mid [] .configureStates 0x02 3 3 15 false) = .next t) ∧
    (∃ t, clock Inputs.idle (mid [] .debug 0x07 3 3 23 false) = .next t) ∧
    (∃ t, clock Inputs.idle (mid [] .debug 0x07 3 3 23 true) = .next t) ∧
    (∃ t, clock Inputs.idle (mid [] .loadFeatures 0x04 5 5 0 false) = .next t) ∧
    (∃ t, clock Inputs.idle { base [] with auto := Automaton.reset } = .next t) :=
  ⟨by decide, by decide, isNext (by decide), isNext (by decide), isNext (by decide), isNext (by decide +kernel),
    isNext (by decide)⟩

/-- Each wait of R158 with an environment that never ends it: a request that needs the memory (a miss, a fetch issued and
one accepted), DEBUG's two, a hand-off, and RESET. -/
theorem witness_WaitsForEver : Admitted Inputs.idle (base []) ∧ Inputs.idle.rst = false ∧ Inputs.idle.rdValid = false ∧
    (∀ s ∈ [base [], fetching .issue 0 (base []), fetching .wait 0 (base []), mid [] .fetchParams 0x02 3 0 0 false,
      mid [] .configureStates 0x02 3 3 15 false, mid [] .configureWeights 0x03 3 3 7 false],
      (steady Inputs.idle s).inputs = [] ∧ (steady Inputs.idle s).thereafter = .steady Inputs.idle ∧
      Pending (steady Inputs.idle s)) ∧
    (∀ s ∈ [mid [] .debug 0x07 3 3 23 false, mid [] .debug 0x07 3 3 23 true, mid [] .loadFeatures 0x04 5 5 0 false,
      { base [] with auto := Automaton.reset }],
      (steady Inputs.idle s).inputs = [] ∧ (steady Inputs.idle s).thereafter = .steady Inputs.idle ∧
      Unanswered Inputs.idle (steady Inputs.idle s)) := by decide

/-- Two lanes that address node 62, one that addresses no node (63), and one that is off. -/
theorem witness_Multiplexer :
    (muxNode #v[⟨true, 63, 1, true⟩, ⟨true, 62, 2, true⟩, ⟨true, 62, 3, false⟩, ⟨false, 62, 4, true⟩] 62).data = 2 ∧
    (muxNode #v[⟨true, 63, 1, true⟩, ⟨true, 62, 2, true⟩, ⟨true, 62, 3, false⟩, ⟨false, 62, 4, true⟩] 61).en = false := by
  decide

/-- A cycle that writes state codes, and one that writes weights, each with its last line arriving. -/
theorem witness_NodeWrites :
    nextHas (clock { Inputs.idle with rdValid := true }
        (fetching .wait 215 (mid (cells 860 [7, 0, 0, 0]) .configureStates 0x02 3 3 15 false)))
      (fun t => t.nodeState[60] == 7 && t.nodeState != sinkS && t.nodeWeight == sinkW) = true ∧
    nextHas (clock { Inputs.idle with rdValid := true }
        (fetching .wait 207 (mid (cells 828 [7, 0, 0, 0]) .configureWeights 0x03 3 3 7 false)))
      (fun t => t.nodeWeight[59] == 7 && t.nodeWeight != sinkW && t.nodeState == sinkS) = true := by
  decide +kernel

/-- Each of the three agents that write `M`. -/
theorem witness_MemoryWriters :
    nextHas (clock { Inputs.idle with wrReady := true } (mid [] .debug 0x07 3 3 0 false))
      (fun t => t.mem != [] && t.auto.wrWait) = true ∧
    nextHas (clock { Inputs.idle with dfWrites := [⟨9, #v[1, 2, 3, 4]⟩] } (mid [] .run 0x06 3 3 0 false))
      (fun t => t.mem.readLine 9 == #v[1, 2, 3, 4] && t.auto.st == .run) = true ∧
    nextHas (clock { Inputs.idle with hostWrites := [⟨0xFFFFFF, #v[1, 2, 3, 4]⟩] }
        { base [] with auto := Automaton.reset })
      (fun t => t.mem.readLine 0xFFFFFF == #v[1, 2, 3, 4] && t.auto.st == .reset) = true := by
  decide +kernel

theorem witness_CacheStaysCoherent : Coherent (caching 1 (base [(0, 0x06)])) ∧
    (∃ t, exec (.run 1) (caching 1 (base [(0, 0x06)])) = .next t) ∧
    (∀ w ∈ dataflowWrites (caching 1 (base [(0, 0x06)])), w.line ≠ (caching 1 (base [(0, 0x06)])).adaptor.cTag) :=
  ⟨fun _ => rfl, ⟨_, rfl⟩, by decide⟩

/-- Host writes outside RESET, with a fetch outstanding, and in cycles with `rst` and `start`; dataflow writes outside a
hand-off, with `rst`, and in the first cycle, with `df_done`. -/
theorem witness_UnadmittedWrites : ({ Inputs.idle with hostWrites := [⟨0, #v[1, 0, 0, 0]⟩] }).hostWrites ≠ [] ∧
    (base []).auto.st ≠ .reset ∧ (fetching .wait 0 (base [])).adaptor.phase ≠ .idle ∧
    ({ Inputs.idle with hostWrites := [⟨0, #v[1, 0, 0, 0]⟩], start := true }).start = true ∧
    Inputs.idle.hostWrites = [] ∧
    ({ Inputs.idle with dfWrites := [⟨0, #v[1, 0, 0, 0]⟩] }).dfWrites ≠ [] ∧
    (base []).auto.st.isHandoff = false ∧
    ({ Inputs.idle with dfWrites := [⟨0, #v[1, 0, 0, 0]⟩], rst := true }).rst = true ∧
    ({ Inputs.idle with dfWrites := [⟨0, #v[1, 0, 0, 0]⟩], dfDone := true }).dfDone = true := by decide

/-- A clock cycle with a scripted input, and a run to the boundary. -/
theorem witness_StepKeeps : (∃ s t, Inv s ∧ s.inputs = [] ∧ step s = .next t) ∧
    (∃ s t, Inv s ∧ s.inputs ≠ [] ∧ step s = .next t) :=
  ⟨⟨mid [] .debug 0x07 3 3 0 false, _, inv_debug, rfl, rfl⟩,
    ⟨{ mid [] .debug 0x07 3 3 0 false with inputs := [Inputs.idle] }, _,
      ⟨by decide, by decide, by decide, by decide⟩, by decide, rfl⟩⟩

/-- A steady environment. -/
theorem witness_StepKeeps_steady : ∃ t, Inv (steady Inputs.idle (base [])) ∧
    step (steady Inputs.idle (base [])) = .next t := ⟨_, ⟨by decide, by decide, by decide, by decide⟩, rfl⟩

theorem witness_NoRun : Inv (mid [] .fetchParams 0x02 3 3 0 false) := inv_params_all

/-- A cycle that ends the instruction, one that does not, and one in a hand-off in which the dataflow core writes. -/
theorem witness_ClockRefines : (Inv (mid [] .run 0x06 3 3 0 false) ∧ (mid [] .run 0x06 3 3 0 false).auto.st ≠ .reset ∧
    nextHas (clock { Inputs.idle with dfDone := true } (mid [] .run 0x06 3 3 0 false))
      (fun t => t.auto.st == .fetchOp) = true) ∧
    (Inv (mid [] .debug 0x07 3 3 23 true) ∧ (mid [] .debug 0x07 3 3 23 true).auto.st ≠ .reset ∧
      nextHas (clock { Inputs.idle with wrAck := true } (mid [] .debug 0x07 3 3 23 true))
        (fun t => t.auto.st == .debug && t.auto.offset == 24) = true) ∧
    nextHas (clock { Inputs.idle with dfWrites := [⟨9, #v[1, 2, 3, 4]⟩] } (mid [] .run 0x06 3 3 0 false))
      (fun t => t.auto.st == .run) = true :=
  ⟨⟨inv_idle_outside_reset, by decide, by decide +kernel⟩, ⟨inv_debug_last, by decide, by decide +kernel⟩,
    by decide +kernel⟩

theorem witness_CycleCounts : Inv (mid [] .configureStates 0x02 3 3 0 false) ∧
    Inv (mid [] .configureWeights 0x03 3 3 0 false) ∧ Inv (mid [] .debug 0x07 3 3 0 false) ∧
    (mid [] .debug 0x07 3 3 0 false).adaptor.phase = .idle ∧ (mid [] .debug 0x07 3 3 0 false).auto.offset = 0 ∧
    (mid [] .debug 0x07 3 3 0 false).auto.wrWait = false :=
  ⟨inv_states, inv_weights, inv_debug, rfl, rfl, rfl⟩

theorem witness_Image : (assemble .reference [.configureStates (List.replicate 63 2), .debug 200]).isSome = true := by
  decide +kernel

/-- The weights beside the range, payloads one short, an operation outside the seven, and a target beside each precondition. -/
theorem witness_BuildErrors : (-129 : Int) ∈ ([-129, 128] : List Int) ∧ (-129 : Int) < -128 ∧ (127 : Int) < 128 ∧
    (List.replicate 62 (0 : Byte)).length ≠ 63 ∧ (List.replicate 31 (0 : Int)).length ≠ 63 - params.numAdders ∧
    Operation.unrecognised "PowerDown" ∈ [Operation.reset, .unrecognised "PowerDown"] ∧
    (⟨4, 63, params⟩ : Target).addrBytes ≠ 3 ∧ (⟨3, 62, params⟩ : Target).numNodes ≠ 63 ∧
    (63 : Nat) < (⟨64, 0, 0⟩ : Params).numAdders ∧
    64 < (⟨31, 31, 9⟩ : Params).weightNodeBase + 4 * (⟨31, 31, 9⟩ : Params).itersW ∧
    32 ≤ 16 + (⟨31, 0, 16⟩ : Params).itersW := by decide

theorem witness_ConfigurationImage : (List.replicate 63 (2 : Byte)).length = 63 ∧
    (-128 :: List.replicate 30 0 ++ [127] : List Int).length = 32 ∧
    ∀ w ∈ (-128 :: List.replicate 30 0 ++ [127] : List Int), weightInRange w = true := by decide

theorem witness_Boot : (List.replicate 1024 (1 : Byte)).length = 1024 := List.length_replicate

end Sys2Proof.Machine.Tests
end

section
/-! PROOFS. One clock cycle outside RESET, said once: what the adaptor answers, what the automaton's rule does to the
system, and what the environment can add (40_automaton.md R109; 20_memory.md R62 to R70; 43_handoff.md R143). -/

namespace Sys2Proof.Machine

/-! ## The legal states -/

/-- Outside a hand-off none is being observed. -/
theorem Inv.dfBusy_eq_false {s : State} (h : Inv s) (hs : s.auto.st.isHandoff = false) : s.dfBusy = false := by
  cases hb : s.dfBusy with
  | false => rfl
  | true => simp [h.busy hb] at hs

/-- With no request no fetch is outstanding (R119). -/
theorem Inv.phase_eq_idle {s : State} (h : Inv s) (hq : (request params s.auto).req = false) :
    s.adaptor.phase = .idle := by
  by_contra hp
  simp [(h.adaptor.1 hp).1] at hq

/-- A fetch that is outstanding is for the line requested (R119). -/
theorem Inv.aLine_eq {s : State} (h : Inv s) (hp : s.adaptor.phase ≠ .idle) :
    lineOf (request params s.auto).baddr = s.adaptor.aLine :=
  (h.adaptor.1 hp).2

/-- `offset` is within the bound of its state (R35). -/
theorem Inv.offset_le {s : State} (h : Inv s) : s.auto.offset.toNat ≤ offsetBound params s.auto.st := by
  obtain ⟨-, -, -, hoff, -⟩ := h.auto
  exact hoff

/-- `wr_wait` is 0 outside DEBUG (R36). -/
theorem Inv.wrWait_eq_false {s : State} (h : Inv s) (hs : s.auto.st ≠ .debug) : s.auto.wrWait = false := by
  obtain ⟨-, -, -, -, hwait⟩ := h.auto
  cases hw : s.auto.wrWait with
  | false => rfl
  | true => exact absurd (hwait hw).1 hs

/-! ## The adaptor's answer, and the request run to its end -/

/-- A request that is accepted in a cycle is the request run to its end (R64, R68, R70). -/
theorem requestLine_of_accepts {inp : Inputs} {s : State} (h : Inv s) (ha : accepts inp s = true) :
    requestLine (lineOf (request params s.auto).baddr) (request params s.auto).bulk s =
      ((adaptorAnswer inp s).rdLine, { s with adaptor := (adaptorAnswer inp s).next }) := by
  obtain ⟨hq, hr⟩ : (request params s.auto).req = true ∧ (adaptorAnswer inp s).byteReady = true := by
    simpa [accepts] using ha
  unfold adaptorAnswer adaptorCycle at *
  cases hp : s.adaptor.phase with
  | idle =>
    cases hh : s.adaptor.hits (lineOf (request params s.auto).baddr) (request params s.auto).bulk <;>
      simp [hp, hq, hh, adaptorIdle, requestLine] at hr ⊢
  | issue => simp [hp, adaptorIssue] at hr
  | wait =>
    have hl := h.aLine_eq (by simp [hp])
    cases hv : inp.rdValid <;>
      simp [hp, hv, hl, adaptorWait, coreInputs, requestLine, Adaptor.hits] at hr ⊢

/-- A miss presents `M(l)`, whatever the adaptor's registers (R65, R68). -/
theorem requestLine_of_miss {l : LineAddr} {bulk : Bool} {s : State} (h : s.adaptor.hits l bulk = false) :
    requestLine l bulk s =
      (s.mem.readLine l, { s with adaptor := Adaptor.filled l (s.mem.readLine l) }) := by
  simp [requestLine, h]

/-- With a fetch outstanding nothing hits (R63). -/
theorem Adaptor.not_hits_of_phase {d : Adaptor} (h : d.phase ≠ .idle) (l : LineAddr) (bulk : Bool) :
    d.hits l bulk = false := by
  simp [Adaptor.hits, h]

/-- A cycle that does not accept the request is a miss, and leaves one (R65, R67, R68). -/
theorem not_hits_of_not_accepts {inp : Inputs} {s : State} (h : Inv s)
    (hq : (request params s.auto).req = true) (ha : accepts inp s = false) :
    s.adaptor.hits (lineOf (request params s.auto).baddr) (request params s.auto).bulk = false ∧
    (adaptorAnswer inp s).next.hits (lineOf (request params s.auto).baddr) (request params s.auto).bulk = false := by
  have hr : (adaptorAnswer inp s).byteReady = false := by simpa [accepts, hq] using ha
  unfold adaptorAnswer adaptorCycle at *
  cases hp : s.adaptor.phase with
  | idle =>
    cases hh : s.adaptor.hits (lineOf (request params s.auto).baddr) (request params s.auto).bulk with
    | true => simp [hp, hq, hh, adaptorIdle] at hr
    | false =>
      refine ⟨rfl, Adaptor.not_hits_of_phase ?_ _ _⟩
      cases hy : inp.rdReady <;> simp [hq, hh, hy, adaptorIdle, coreInputs]
  | issue =>
    refine ⟨Adaptor.not_hits_of_phase (by simp [hp]) _ _, Adaptor.not_hits_of_phase ?_ _ _⟩
    cases hy : inp.rdReady <;> simp [hy, adaptorIssue, coreInputs]
  | wait =>
    have hl := h.aLine_eq (by simp [hp])
    cases hv : inp.rdValid with
    | true => simp [hp, hv, hl, adaptorWait, coreInputs] at hr
    | false => simp [hp, hv, adaptorWait, coreInputs, Adaptor.not_hits_of_phase]

/-- A cycle that does not accept the request leaves what the request run to its end gives. -/
theorem requestLine_of_not_accepts {inp : Inputs} {s : State} (h : Inv s)
    (hq : (request params s.auto).req = true) (ha : accepts inp s = false) :
    requestLine (lineOf (request params s.auto).baddr) (request params s.auto).bulk
        { s with adaptor := (adaptorAnswer inp s).next } =
      requestLine (lineOf (request params s.auto).baddr) (request params s.auto).bulk s := by
  obtain ⟨hs, hn⟩ := not_hits_of_not_accepts h hq ha
  rw [requestLine_of_miss hs, requestLine_of_miss hn]

/-- With no request the adaptor keeps its registers (R66, R119). -/
theorem adaptorAnswer_next_of_no_request {inp : Inputs} {s : State} (h : Inv s)
    (hq : (request params s.auto).req = false) : (adaptorAnswer inp s).next = s.adaptor := by
  simp [adaptorAnswer, adaptorCycle, h.phase_eq_idle hq, adaptorIdle, hq]

/-! ## The automaton's answer, and the system after it -/

/-- What the automaton's rule answers in a cycle without `rst` (R109 step 4). -/
def automatonAnswer (inp : Inputs) (s : State) : AutoCycle :=
  automatonCycle params (request params s.auto) (adaptorAnswer inp s) (coreInputs inp s) s.auto

/-- What a cycle's answers of the adaptor (its next registers `d`) and of the automaton do to the system, outside RESET
and outside a hand-off: the lanes reach the nodes, the write port its line, and the registers take their next values. -/
def cycleEffect (inp : Inputs) (d : Adaptor) (au : AutoCycle) (s : State) : State :=
  let s1 := sinkLanes au.lanes s
  let s2 := if au.wrReq && inp.wrReady then acceptWrite au.wrAddr au.wrData s1 else s1
  { s2 with auto := au.next, adaptor := if au.clear then { d with cValid := false } else d }

/-- A cycle that assigns no output changes CORE's registers alone. -/
theorem cycleEffect_quiet (inp : Inputs) (d : Adaptor) (a : Automaton) (s : State) :
    cycleEffect inp d (.quiet a) s = { s with auto := a, adaptor := d } := rfl

/-- A clock cycle that gives a state was admitted, was no stuck dispatch, and gives CORE's next registers in the
environment's next state. -/
theorem clock_next {inp : Inputs} {s t : State} (h : clock inp s = .next t) :
    Admitted inp s ∧ (dispatchStuck s.auto && !inp.rst) = false ∧
      t = { environmentCycle inp (outputs inp s) s with
        auto := (coreCycleOf inp s).auto, adaptor := (coreCycleOf inp s).adaptor } := by
  unfold clock at h
  split at h
  · cases h
  · split at h
    · cases h
    · split at h
      · cases h
      · next hh hd hs =>
        cases h
        exact ⟨⟨by simpa using hh, by simpa using hd⟩, by simpa using hs, rfl⟩

section
variable {inp : Inputs} {s : State}

/-- Outside RESET the host writes nothing (R174). -/
theorem Admitted.hostWrites_eq_nil (h : Admitted inp s) (hs : s.auto.st ≠ .reset) : inp.hostWrites = [] := by
  simpa [hostBreaksDuty, hs] using h.1

/-- Outside a hand-off the dataflow core writes nothing (R143). -/
theorem Admitted.dfWrites_eq_nil (h : Admitted inp s) (hs : s.auto.st.isHandoff = false) : inp.dfWrites = [] := by
  simpa [dataflowBreaksDuty, hs] using h.2

/-- In the cycle with `df_done = 1` the dataflow core writes nothing (R143). -/
theorem Admitted.dfWrites_eq_nil_of_done (h : Admitted inp s) (hd : inp.dfDone = true) : inp.dfWrites = [] := by
  simpa [dataflowBreaksDuty, hd] using h.2

/-- CORE's cycle without `rst`: the answers of the adaptor and of the automaton (R109). -/
theorem coreCycleOf_of_not_rst (hr : inp.rst = false) :
    (coreCycleOf inp s).auto = (automatonAnswer inp s).next ∧
    (coreCycleOf inp s).adaptor = (if (automatonAnswer inp s).clear then
      { (adaptorAnswer inp s).next with cValid := false } else (adaptorAnswer inp s).next) ∧
    (outputs inp s).lanes = (automatonAnswer inp s).lanes ∧
    (outputs inp s).wrReq = (automatonAnswer inp s).wrReq ∧
    (outputs inp s).wrAddr = (automatonAnswer inp s).wrAddr ∧
    (outputs inp s).wrData = (automatonAnswer inp s).wrData ∧
    (outputs inp s).dfValid = (automatonAnswer inp s).dfValid := by
  have hi : ¬ (coreInputs inp s).rst = true := by simp [coreInputs, hr]
  unfold outputs coreCycleOf coreCycle
  rw [if_neg hi]
  exact ⟨rfl, rfl, rfl, rfl, rfl, rfl, rfl⟩

end

@[simp] theorem Memory.writeLines_nil (m : Memory) : m.writeLines [] = m := rfl

theorem Memory.writeLines_append (m : Memory) (ws vs : List LineWrite) :
    m.writeLines (ws ++ vs) = (m.writeLines ws).writeLines vs := List.foldl_append

/-! ## Only the rule of a hand-off state presents a hand-off (R143) -/

@[simp] theorem fetchOpCycle_dfValid (b : Byte) (a : Automaton) : (fetchOpCycle b a).dfValid = false := by
  unfold fetchOpCycle
  split <;> rfl

@[simp] theorem fetchParamsCycle_dfValid (ready : Bool) (b : Byte) (a : Automaton) :
    (fetchParamsCycle ready b a).dfValid = false := by
  unfold fetchParamsCycle
  split
  · rfl
  · split
    · split <;> rfl
    · rfl

@[simp] theorem transferCycle_dfValid (base iters : Nat) (wsel ready : Bool) (L : Line) (a : Automaton) :
    (transferCycle base iters wsel ready L a).dfValid = false := by
  unfold transferCycle
  split_ifs <;> rfl

@[simp] theorem debugCycle_dfValid (P : Params) (i : CoreInputs) (a : Automaton) :
    (debugCycle P i a).dfValid = false := by
  unfold debugCycle
  split_ifs <;> rfl

theorem automatonAnswer_dfValid (inp : Inputs) (s : State) :
    (automatonAnswer inp s).dfValid = s.auto.st.isHandoff := by
  unfold automatonAnswer automatonCycle
  cases s.auto.st with
  | fetchOp =>
    dsimp only
    split
    · exact fetchOpCycle_dfValid _ _
    · rfl
  | loadFeatures => rfl
  | storeFeatures => rfl
  | run => rfl
  | reset => rfl
  | _ => simp [AutoState.isHandoff]

/-! ## One clock cycle outside RESET -/

section
variable {inp : Inputs} {s t : State}

/-- Where neither the dataflow core nor the host has a move, the environment takes the lanes and the write port's line. -/
theorem environmentCycle_eq {out : CoreOutputs} (hdf : inp.dfWrites = []) (hhost : inp.hostWrites = [])
    (hv : out.dfValid = false) (hb : s.dfBusy = false) :
    environmentCycle inp out s = writePort inp out (sinkLanes out.lanes s) := by
  have hb' : (writePort inp out (sinkLanes out.lanes s)).dfBusy = false := by
    unfold writePort
    split <;> simp [hb]
  unfold environmentCycle
  generalize writePort inp out (sinkLanes out.lanes s) = u at hb' ⊢
  cases u
  simp_all [hostPort, dataflowCore]

/-- Outside a hand-off a clock cycle is the effect of the adaptor's and the automaton's answers, and nothing else: no
other agent has a move (R59, R143, R174). -/
theorem clock_outside_handoff (h : Inv s) (hs : s.auto.st ≠ .reset) (hh : s.auto.st.isHandoff = false)
    (hr : inp.rst = false) (hc : clock inp s = .next t) :
    t = cycleEffect inp (adaptorAnswer inp s).next (automatonAnswer inp s) s := by
  obtain ⟨hadm, -, ht⟩ := clock_next hc
  obtain ⟨hauto, hadaptor, hlanes, hreq, haddr, hdata, hval⟩ := coreCycleOf_of_not_rst (s := s) hr
  have henv := environmentCycle_eq (hadm.dfWrites_eq_nil hh) (hadm.hostWrites_eq_nil hs)
    (hval.trans ((automatonAnswer_dfValid inp s).trans hh)) (h.dfBusy_eq_false hh)
  rw [ht, henv, writePort, hauto, hadaptor, hlanes, hreq, haddr, hdata]
  rfl

/-- A cycle of FETCH_OP waits, goes on to FETCH_PARAMS with a recognised opcode, or takes the reset action (R113). -/
theorem clock_fetchOp (h : Inv s) (hs : s.auto.st = .fetchOp) (hr : inp.rst = false) (hc : clock inp s = .next t) :
    (accepts inp s = false ∧ t = { s with adaptor := (adaptorAnswer inp s).next }) ∨
    (accepts inp s = true ∧ execState (acceptedByte inp s) = none ∧
      t = resetAction { s with adaptor := (adaptorAnswer inp s).next }) ∨
    (accepts inp s = true ∧ (execState (acceptedByte inp s)).isSome = true ∧
      t = { s with auto := acceptOpcode (acceptedByte inp s) s.auto, adaptor := (adaptorAnswer inp s).next }) := by
  have hau : automatonAnswer inp s =
      if accepts inp s then fetchOpCycle (acceptedByte inp s) s.auto else .quiet s.auto := by
    simp [automatonAnswer, automatonCycle, hs, accepts, acceptedByte]
  rw [clock_outside_handoff h (by simp [hs]) (by simp [hs, AutoState.isHandoff]) hr hc, hau]
  cases ha : accepts inp s with
  | false => exact .inl ⟨rfl, rfl⟩
  | true =>
    cases he : execState (acceptedByte inp s) with
    | none => exact .inr (.inl ⟨rfl, rfl, by rw [if_pos rfl, fetchOpCycle, he]; rfl⟩)
    | some st => exact .inr (.inr ⟨rfl, rfl, by simp [fetchOpCycle, he, cycleEffect_quiet]⟩)

/-- A cycle of FETCH_PARAMS waits for an operand byte, accepts one, or dispatches (R114, R115). -/
theorem clock_fetchParams (h : Inv s) (hs : s.auto.st = .fetchParams) (hr : inp.rst = false)
    (hc : clock inp s = .next t) :
    (s.auto.paramCnt < s.auto.nParams ∧ accepts inp s = false ∧
      t = { s with adaptor := (adaptorAnswer inp s).next }) ∨
    (s.auto.paramCnt < s.auto.nParams ∧ accepts inp s = true ∧
      t = { s with auto := acceptOperand (acceptedByte inp s) s.auto, adaptor := (adaptorAnswer inp s).next }) ∨
    (s.auto.paramCnt = s.auto.nParams ∧ ∃ st, execState s.auto.opcode = some st ∧
      t = { s with auto := { s.auto with st := st } }) := by
  obtain ⟨⟨hsome, -⟩, hle⟩ := h.auto.2.1 hs
  have hau : automatonAnswer inp s = fetchParamsCycle (accepts inp s) (acceptedByte inp s) s.auto := by
    simp [automatonAnswer, automatonCycle, hs, accepts, acceptedByte]
  rw [clock_outside_handoff h (by simp [hs]) (by simp [hs, AutoState.isHandoff]) hr hc, hau]
  by_cases hlt : s.auto.paramCnt < s.auto.nParams
  · cases ha : accepts inp s with
    | false => exact .inl ⟨hlt, rfl, by simp [fetchParamsCycle, hlt, cycleEffect_quiet]⟩
    | true => exact .inr (.inl ⟨hlt, rfl, by simp [fetchParamsCycle, hlt, cycleEffect_quiet]⟩)
  · have heq : s.auto.paramCnt = s.auto.nParams := by bv_omega
    obtain ⟨st, hst⟩ := Option.isSome_iff_exists.mp hsome
    refine .inr (.inr ⟨heq, st, hst, ?_⟩)
    have hq : (request params s.auto).req = false := by simp [request, hs, heq, Request.quiet]
    simp [fetchParamsCycle, heq, hst, cycleEffect_quiet, adaptorAnswer_next_of_no_request h hq]

@[simp] theorem lineOf_firstByteOf (l : LineAddr) : lineOf (firstByteOf l) = l :=
  BitVec.extractLsb'_append_eq_left

/-- A cycle of a transfer state ends it, waits for a line, or sends one to the nodes and counts it (R132, R133). -/
theorem clock_transfer {base iters : Nat} {wsel : Bool} (h : Inv s) (hs : s.auto.st ≠ .reset)
    (hh : s.auto.st.isHandoff = false) (hb : s.auto.offset.toNat ≤ iters)
    (hq : request params s.auto = transferRequest iters s.auto)
    (hau : automatonAnswer inp s =
      transferCycle base iters wsel (accepts inp s) (adaptorAnswer inp s).rdLine s.auto)
    (hr : inp.rst = false) (hc : clock inp s = .next t) :
    (s.auto.offset.toNat = iters ∧ t = endExecution s) ∨
    (s.auto.offset.toNat < iters ∧ accepts inp s = false ∧ t = { s with adaptor := (adaptorAnswer inp s).next }) ∨
    (s.auto.offset.toNat < iters ∧ accepts inp s = true ∧ t = transferLine base wsel s) := by
  rw [clock_outside_handoff h hs hh hr hc, hau]
  by_cases heq : s.auto.offset.toNat = iters
  · have hnq : (request params s.auto).req = false := by simp [hq, transferRequest, heq, Request.quiet]
    refine .inl ⟨heq, ?_⟩
    rw [transferCycle, if_pos heq, cycleEffect_quiet, adaptorAnswer_next_of_no_request h hnq]
    rfl
  · have hlt : s.auto.offset.toNat < iters := by omega
    have hreq : request params s.auto = ⟨true, firstByteOf (lineAt s.auto.addr s.auto.offset), true⟩ := by
      rw [hq, transferRequest, if_pos hlt]
    refine .inr ?_
    rw [transferCycle, if_neg heq]
    cases ha : accepts inp s with
    | false => exact .inl ⟨hlt, rfl, rfl⟩
    | true =>
      have hline := requestLine_of_accepts h ha
      rw [hreq, lineOf_firstByteOf] at hline
      refine .inr ⟨hlt, rfl, ?_⟩
      rw [transferLine, hline]
      rfl

/-- A cycle of DEBUG ends it, or offers its line until it is accepted, or awaits the acknowledge (R148). -/
theorem clock_debug (h : Inv s) (hs : s.auto.st = .debug) (hr : inp.rst = false) (hc : clock inp s = .next t) :
    (s.auto.offset.toNat = params.debugLines ∧ t = endExecution s) ∨
    (s.auto.offset.toNat ≠ params.debugLines ∧ s.auto.wrWait = false ∧
      t = if inp.wrReady then debugAccept params s else s) ∨
    (s.auto.offset.toNat ≠ params.debugLines ∧ s.auto.wrWait = true ∧ t = if inp.wrAck then debugAck s else s) := by
  have hau : automatonAnswer inp s = debugCycle params (coreInputs inp s) s.auto := by
    simp [automatonAnswer, automatonCycle, hs]
  have hq : (request params s.auto).req = false := by simp [request, hs, Request.quiet]
  rw [clock_outside_handoff h (by simp [hs]) (by simp [hs, AutoState.isHandoff]) hr hc, hau,
    adaptorAnswer_next_of_no_request h hq, debugCycle]
  by_cases heq : s.auto.offset.toNat = params.debugLines
  · exact .inl ⟨heq, by rw [if_pos heq]; rfl⟩
  · rw [if_neg heq]
    refine .inr ?_
    cases hw : s.auto.wrWait with
    | false =>
      refine .inl ⟨heq, rfl, ?_⟩
      cases ha : inp.wrReady <;> simp only [coreInputs, ha, cycleEffect] <;> rfl
    | true =>
      refine .inr ⟨heq, rfl, ?_⟩
      cases ha : inp.wrAck <;> simp only [coreInputs, ha] <;> rfl

@[simp] theorem presentHandoff_adaptor (s : State) : (presentHandoff s).adaptor = s.adaptor := by
  unfold presentHandoff
  split <;> rfl

/-- A cycle of a hand-off state presents the hand-off, lets the dataflow core write, and ends it with `df_done` (R143). -/
theorem clock_handoff (h : Inv s) (hh : s.auto.st.isHandoff = true) (hr : inp.rst = false)
    (hc : clock inp s = .next t) :
    t = { presentHandoff s with
      auto := if inp.dfDone then { s.auto with st := .fetchOp } else s.auto
      mem := s.mem.writeLines inp.dfWrites
      dfBusy := !inp.dfDone } := by
  obtain ⟨hadm, -, ht⟩ := clock_next hc
  obtain ⟨hauto, hadaptor, hlanes, hreq, -, -, hval⟩ := coreCycleOf_of_not_rst (s := s) hr
  have hs : s.auto.st ≠ .reset := by
    rintro hs
    simp [hs, AutoState.isHandoff] at hh
  have hau : automatonAnswer inp s = handoffCycle inp.dfDone s.auto := by
    unfold automatonAnswer automatonCycle
    cases hs : s.auto.st <;> simp_all [AutoState.isHandoff, coreInputs]
  have hq : (request params s.auto).req = false := by
    unfold request
    cases hs : s.auto.st <;> simp_all [AutoState.isHandoff, Request.quiet]
  rw [hau] at hauto hadaptor hlanes hreq hval
  have hport : writePort inp (outputs inp s) (sinkLanes (outputs inp s).lanes s) = s := by
    rw [writePort, hreq, hlanes]
    rfl
  rw [ht, hauto, hadaptor, adaptorAnswer_next_of_no_request h hq, environmentCycle, hport, hostPort,
    hadm.hostWrites_eq_nil hs, dataflowCore, hval, ← presentHandoff_mem s, ← presentHandoff_adaptor s]
  rfl

end

end Sys2Proof.Machine
end

section
/-! PROOFS. The run to the instruction boundary, one rule per part of it: what is left of a run after one operand byte, one
line of a transfer, one line of DEBUG or one dispatch is the run of what is left (40_automaton.md R113 to R116, R121). -/

namespace Sys2Proof.Machine

/-! ## The run to the boundary, by state (R121) -/

section
variable {s : State}

theorem runToBoundary_fetchOp (h : s.auto.st = .fetchOp) : runToBoundary s = runInstruction s := by
  simp [runToBoundary, h]

theorem runToBoundary_fetchParams (h : s.auto.st = .fetchParams) : runToBoundary s = finishFetchParams s := by
  simp [runToBoundary, h]

theorem runToBoundary_configureStates (h : s.auto.st = .configureStates) :
    runToBoundary s = .next (finishTransfer stateNodeBase itersS false s) := by
  simp [runToBoundary, h, finishConfigureStates]

theorem runToBoundary_configureWeights (h : s.auto.st = .configureWeights) :
    runToBoundary s = .next (finishTransfer params.weightNodeBase params.itersW true s) := by
  simp [runToBoundary, h, finishConfigureWeights]

theorem runToBoundary_debug (h : s.auto.st = .debug) : runToBoundary s = .next (finishDebug params s) := by
  simp [runToBoundary, h]

theorem runToBoundary_handoff (h : s.auto.st.isHandoff = true) : runToBoundary s = .next (finishHandoff s) := by
  unfold runToBoundary
  cases hst : s.auto.st <;> simp_all [AutoState.isHandoff]

end

/-! ## Transfers and DEBUG -/

/-- A line of a transfer does not depend on the adaptor: a bulk request never hits (R63, R71). -/
theorem transferLine_of_adaptor (base : Nat) (wsel : Bool) (s : State) (d : Adaptor) :
    transferLine base wsel { s with adaptor := d } = transferLine base wsel s := by
  simp [transferLine, requestLine_bulk]

theorem finishTransfer_of_end {base iters : Nat} {wsel : Bool} {s : State} (h : s.auto.offset.toNat = iters) :
    finishTransfer base iters wsel s = endExecution s := by
  simp [finishTransfer, h, transferLines]

/-- With lines left, a transfer is its next line and then the rest (R132, R133). -/
theorem finishTransfer_of_lt {base iters : Nat} {wsel : Bool} {s : State} (hlt : s.auto.offset.toNat < iters)
    (hi : iters < 32) :
    finishTransfer base iters wsel s = finishTransfer base iters wsel (transferLine base wsel s) := by
  have hoff : (transferLine base wsel s).auto.offset.toNat = s.auto.offset.toNat + 1 := by
    rw [transferLine_auto]
    bv_omega
  obtain ⟨n, hn⟩ : ∃ n, iters - s.auto.offset.toNat = n + 1 := ⟨iters - s.auto.offset.toNat - 1, by omega⟩
  have hn' : iters - (s.auto.offset.toNat + 1) = n := by omega
  rw [finishTransfer, if_pos hlt.le, finishTransfer, hoff, if_pos (by omega), hn, hn', transferLines]

/-- While lines are left `debugRemaining` counts the one at `offset`, also modulo 2^5 (R148, R18). -/
theorem debugRemaining_succ (P : Params) (o : BitVec 5) (h : debugRemaining P o ≠ 0) :
    debugRemaining P o = debugRemaining P (o + 1) + 1 := by
  unfold debugRemaining at *
  generalize BitVec.ofNat 5 P.debugLines = c at *
  bv_omega

theorem debugRemaining_eq_zero_iff (o : BitVec 5) : debugRemaining params o = 0 ↔ o.toNat = params.debugLines := by
  simp only [debugRemaining, params_debugLines]
  bv_omega

theorem finishDebug_of_end {s : State} (h : s.auto.offset.toNat = params.debugLines) :
    finishDebug params s = endExecution s := by
  have h0 := (debugRemaining_eq_zero_iff _).mpr h
  simp [finishDebug, h0, debugLines]

/-- A line that is accepted has only to be acknowledged (R148). -/
theorem finishDebug_debugAck {s : State} (hn : s.auto.offset.toNat ≠ params.debugLines) (hw : s.auto.wrWait = true) :
    finishDebug params (debugAck s) = finishDebug params s := by
  have h0 := (debugRemaining_eq_zero_iff _).not.mpr hn
  simp [finishDebug, hw, h0]

/-- With lines left and none accepted, DEBUG is the acceptance of the next line and then the rest (R148, R150). -/
theorem finishDebug_debugAccept {s : State} (hn : s.auto.offset.toNat ≠ params.debugLines)
    (hw : s.auto.wrWait = false) : finishDebug params (debugAccept params s) = finishDebug params s := by
  have h0 := (debugRemaining_eq_zero_iff _).not.mpr hn
  have hacc : (debugAccept params s).auto.wrWait = true := rfl
  simp [finishDebug, hw, hacc, debugRemaining_succ params s.auto.offset h0, debugLines]

/-! ## The fetch of operand bytes -/

/-- A request sees nothing of the automaton's registers. -/
theorem requestLine_of_auto (l : LineAddr) (bulk : Bool) (s : State) (a : Automaton) :
    requestLine l bulk { s with auto := a } =
      ((requestLine l bulk s).1, { (requestLine l bulk s).2 with auto := a }) := by
  unfold requestLine
  split <;> rfl

/-- FETCH_PARAMS accepting several operand bytes in order (R114). -/
def acceptOperands (bytes : List Byte) (a : Automaton) : Automaton :=
  bytes.foldl (fun a b => acceptOperand b a) a

theorem acceptOperand_pc (b : Byte) (a : Automaton) : (acceptOperand b a).pc = a.pc + 1 := rfl

/-- Streaming `n` operand bytes is fetching them and accepting them (R85, R114). -/
theorem streamOperands_eq (n : Nat) (s : State) (a : Automaton) (hpc : a.pc = s.auto.pc) :
    streamOperands n { s with auto := a } =
      { (fetchBytes n s).2 with auto := acceptOperands (fetchBytes n s).1 a } := by
  induction n generalizing s a with
  | zero => rfl
  | succ n ih =>
    rw [fetchBytes, streamOperands, requestLine_of_auto]
    exact hpc ▸ ih (fetchByte s).2 (acceptOperand (fetchByte s).1 a) (by simp [acceptOperand_pc, fetchByte_auto, hpc])

/-- Every operand byte moves `pc` on by one (R114, R118). -/
theorem acceptOperands_pc (bytes : List Byte) (a : Automaton) :
    (acceptOperands bytes a).pc = a.pc + BitVec.ofNat 26 bytes.length := by
  induction bytes generalizing a with
  | nil => simp [acceptOperands]
  | cons b rest ih =>
    have hstep : acceptOperands (b :: rest) a = acceptOperands rest (acceptOperand b a) := rfl
    rw [hstep, ih, acceptOperand_pc, List.length_cons]
    bv_omega

/-- Three address bytes, accepted in order, replace the whole address (R32, R89). -/
theorem setAddrByte_all (b0 b1 b2 : Byte) (a : LineAddr) :
    setAddrByte 2 b2 (setAddrByte 1 b1 (setAddrByte 0 b0 a)) = addrOfBytes b0 b1 b2 := by
  unfold setAddrByte addrOfBytes
  ext i hi
  grind

/-- The operands of format FA fill the address register (R87, R114). -/
theorem acceptOperands_three (b0 b1 b2 : Byte) {a : Automaton} (h : a.paramCnt = 0) :
    acceptOperands [b0, b1, b2] a =
      { a with addr := addrOfBytes b0 b1 b2, paramCnt := 3, pc := a.pc + 3 } := by
  simp [acceptOperands, acceptOperand, h, setAddrByte_all, BitVec.add_assoc]

/-- The operands of format FB fill the address register, `pbuf` and `lcount` (R88, R114). -/
theorem acceptOperands_five (b0 b1 b2 p c : Byte) {a : Automaton} (h : a.paramCnt = 0) :
    acceptOperands [b0, b1, b2, p, c] a =
      { a with addr := addrOfBytes b0 b1 b2, pbuf := p, lcount := c, paramCnt := 5, pc := a.pc + 5 } := by
  simp [acceptOperands, acceptOperand, h, setAddrByte_all, Config.addrBytes, BitVec.add_assoc]

/-! ## Dispatch -/

/-- Staging overwrites what the automaton's registers held, but for `pc`, `pbuf` and `lcount` (R121). -/
theorem stage_of_auto (op : Opcode) (st : AutoState) (a : BitVec 24) (s : State) {u : Automaton}
    (hpc : u.pc = s.auto.pc) (hp : u.pbuf = s.auto.pbuf) (hl : u.lcount = s.auto.lcount) :
    stage op st a { s with auto := u } = stage op st a s := by
  simp [stage, hpc, hp, hl]

theorem stageFeatures_of_auto (op : Opcode) (st : AutoState) (p c : Byte) (a : BitVec 24) (s : State) {u : Automaton}
    (hpc : u.pc = s.auto.pc) : stageFeatures op st p c a { s with auto := u } = stageFeatures op st p c a s := by
  simp [stageFeatures, stage, hpc]

/-- An execution depends on the automaton's registers through `pc` alone, and on `pbuf` and `lcount` where the format
has no byte for them (R121, R124). -/
theorem exec_of_auto (i : Instr) (s : State) {u : Automaton} (hpc : u.pc = s.auto.pc)
    (hFA : i.opcode.arity = 3 → u.pbuf = s.auto.pbuf ∧ u.lcount = s.auto.lcount) :
    exec i { s with auto := u } = exec i s := by
  cases i with
  | reset => rfl
  | loadFeatures p c line => simp only [exec, execLoadFeatures, stageFeatures_of_auto _ _ _ _ _ _ hpc]
  | storeFeatures p c line => simp only [exec, execStoreFeatures, stageFeatures_of_auto _ _ _ _ _ _ hpc]
  | configureStates line =>
    simp only [exec, execConfigureStates, stage_of_auto _ _ _ _ hpc (hFA rfl).1 (hFA rfl).2]
  | configureWeights line =>
    simp only [exec, execConfigureWeights, stage_of_auto _ _ _ _ hpc (hFA rfl).1 (hFA rfl).2]
  | run len => simp only [exec, execRun, stage_of_auto _ _ _ _ hpc (hFA rfl).1 (hFA rfl).2]
  | debug line => simp only [exec, execDebug, stage_of_auto _ _ _ _ hpc (hFA rfl).1 (hFA rfl).2]

/-- `EXEC` names the execute state of a recognised opcode (R116). -/
theorem exists_opcode_of_execState {b : Byte} {st : AutoState} (h : execState b = some st) :
    ∃ op : Opcode, b = op.code ∧ opcodeExecState op = some st := by
  obtain ⟨op, hop, hst⟩ := Option.bind_eq_some_iff.mp h
  exact ⟨op, Opcode.code_of_ofByte hop, hst⟩

/-- The instruction of an opcode, from the values of the staging registers its format uses (R87, R88). -/
def instrOf : Opcode → BitVec 24 → Byte → Byte → Instr
  | .reset, _, _, _ => .reset
  | .configureStates, a, _, _ => .configureStates a
  | .configureWeights, a, _, _ => .configureWeights a
  | .loadFeatures, a, p, c => .loadFeatures p c a
  | .storeFeatures, a, p, c => .storeFeatures p c a
  | .run, a, _, _ => .run a
  | .debug, a, _, _ => .debug a

@[simp] theorem opcode_instrOf (op : Opcode) (a : BitVec 24) (p c : Byte) : (instrOf op a p c).opcode = op := by
  cases op <;> rfl

/-- The bytes of format FB, or of a shorter format with bytes after them, execute the instruction of the opcode. -/
theorem executeBytes_five (op : Opcode) (b0 b1 b2 p c : Byte) (s : State) :
    executeBytes [op.code, b0, b1, b2, p, c] s = exec (instrOf op (addrOfBytes b0 b1 b2) p c) s := by
  cases op <;> rfl

/-- The bytes of format FA execute the instruction of the opcode, whatever `pbuf` and `lcount` hold. -/
theorem executeBytes_three {op : Opcode} (h : op.arity = 3) (b0 b1 b2 p c : Byte) (s : State) :
    executeBytes [op.code, b0, b1, b2] s = exec (instrOf op (addrOfBytes b0 b1 b2) p c) s := by
  cases op with
  | reset => cases h
  | loadFeatures => cases h
  | storeFeatures => cases h
  | _ => rfl

/-- A dispatch executes the instruction that the staging registers hold (R115, R116). -/
theorem executeBytes_stagedBytes {op : Opcode} {a : Automaton} (h : a.opcode = op.code) (s : State) :
    executeBytes (stagedBytes a) s = exec (instrOf op a.addr a.pbuf a.lcount) s := by
  rw [stagedBytes, h, executeBytes_five, addrOfBytes_addrByte]

/-- Where the fetch has staged an instruction, its execution is the run from its execute state (R115, R116). -/
theorem exec_instrOf_of_staged {op : Opcode} {st : AutoState} {s : State}
    (hstage : stage op st s.auto.addr s = { s with auto := { s.auto with st := st } }) (hb : s.dfBusy = false)
    (hst : opcodeExecState op = some st) :
    exec (instrOf op s.auto.addr s.auto.pbuf s.auto.lcount) s =
      runToBoundary { s with auto := { s.auto with st := st } } := by
  have hhand : performHandoff (stage op st s.auto.addr s) = finishHandoff { s with auto := { s.auto with st := st } } := by
    rw [performHandoff, hstage, ← hb]
  cases op with
  | reset => cases hst
  | configureStates => cases hst; exact congrArg (fun u => Host.Outcome.next (finishConfigureStates u)) hstage
  | configureWeights => cases hst; exact congrArg (fun u => Host.Outcome.next (finishConfigureWeights params u)) hstage
  | loadFeatures => cases hst; exact congrArg Host.Outcome.next hhand
  | storeFeatures => cases hst; exact congrArg Host.Outcome.next hhand
  | run => cases hst; exact congrArg Host.Outcome.next hhand
  | debug => cases hst; exact congrArg (fun u => Host.Outcome.next (finishDebug params u)) hstage

/-- Within the arity of a decoded opcode, FETCH_PARAMS streams the missing operands and dispatches (R114 to R116). -/
theorem finishFetchParams_eq {s : State} (hle : s.auto.paramCnt ≤ s.auto.nParams)
    (hsome : (execState s.auto.opcode).isSome = true) :
    finishFetchParams s =
      executeBytes (stagedBytes (streamOperands (s.auto.nParams.toNat - s.auto.paramCnt.toNat) s).auto)
        (streamOperands (s.auto.nParams.toNat - s.auto.paramCnt.toNat) s) := by
  have hnone : (execState s.auto.opcode).isNone ≠ true := by simpa [Option.isSome_iff_ne_none] using hsome
  rw [finishFetchParams, if_pos hle, if_neg hnone]

/-- A dispatch from a legal state is the run from the execute state (R115, R116). -/
theorem finishFetchParams_of_dispatch {s : State} (h : Inv s) (hs : s.auto.st = .fetchParams)
    (heq : s.auto.paramCnt = s.auto.nParams) {st : AutoState} (hst : execState s.auto.opcode = some st) :
    finishFetchParams s = runToBoundary { s with auto := { s.auto with st := st } } := by
  obtain ⟨⟨hsome, hn⟩, hle⟩ := h.auto.2.1 hs
  have hoff : s.auto.offset = 0 := by
    have hle := h.offset_le
    rw [hs, offsetBound] at hle
    bv_omega
  have hw := h.wrWait_eq_false (by simp [hs])
  have hb := h.dfBusy_eq_false (by simp [hs, AutoState.isHandoff])
  obtain ⟨op, hop, hop'⟩ := exists_opcode_of_execState hst
  have hnp : s.auto.nParams = BitVec.ofNat 3 op.arity := by rw [hn, hop, arity_code]
  have hstage : stage op st s.auto.addr s = { s with auto := { s.auto with st := st } } := by
    simp only [stage, ← hop, ← hnp, heq, ← hoff, ← hw]
  rw [finishFetchParams_eq hle hsome, heq, Nat.sub_self, streamOperands, executeBytes_stagedBytes hop,
    exec_instrOf_of_staged hstage hb hop']

theorem acceptOperand_frame (b : Byte) (a : Automaton) :
    (acceptOperand b a).st = a.st ∧ (acceptOperand b a).opcode = a.opcode ∧
    (acceptOperand b a).nParams = a.nParams ∧ (acceptOperand b a).paramCnt = a.paramCnt + 1 := by
  simp only [acceptOperand]
  split_ifs <;> simp

/-- While operand bytes are missing, what is left of FETCH_PARAMS is one of them and then the rest (R114). -/
theorem finishFetchParams_of_lt {s : State} (hlt : s.auto.paramCnt < s.auto.nParams)
    (hsome : (execState s.auto.opcode).isSome = true) :
    finishFetchParams s = finishFetchParams
      { (requestLine (lineOf s.auto.pc) false s).2 with
        auto := acceptOperand (lineByte (requestLine (lineOf s.auto.pc) false s).1 (selOf s.auto.pc)) s.auto } := by
  set b := lineByte (requestLine (lineOf s.auto.pc) false s).1 (selOf s.auto.pc) with hb
  obtain ⟨-, hop, hn, hcnt⟩ := acceptOperand_frame b s.auto
  have hk : s.auto.nParams.toNat - s.auto.paramCnt.toNat =
      (s.auto.nParams.toNat - (s.auto.paramCnt + 1).toNat) + 1 := by bv_omega
  have hle : (acceptOperand b s.auto).paramCnt ≤ (acceptOperand b s.auto).nParams := by
    rw [hcnt, hn]
    bv_omega
  rw [finishFetchParams_eq (BitVec.le_of_lt hlt) hsome, hk, streamOperands, ← hb, requestLine_auto,
    finishFetchParams_eq hle (hop ▸ hsome)]
  simp only [hn, hcnt]

theorem fetchBytes_auto (n : Nat) (s : State) :
    (fetchBytes n s).2.auto = { s.auto with pc := s.auto.pc + BitVec.ofNat 26 n } :=
  congrArg State.auto (fetchBytes_frame n s)

/-- An opcode with an execute state has the operands of format FA or FB (R15, R116). -/
theorem arity_of_opcodeExecState {op : Opcode} {st : AutoState} (h : opcodeExecState op = some st) :
    op.arity = 3 ∨ op.arity = 5 := by
  cases op with
  | reset => cases h
  | loadFeatures => exact .inr rfl
  | storeFeatures => exact .inr rfl
  | _ => exact .inl rfl

/-- Operand bytes accepted into the staging registers dispatch to what the bytes themselves execute (R114, R121). -/
theorem executeBytes_acceptOperands {op : Opcode} {st : AutoState} (hst : opcodeExecState op = some st)
    {bytes : List Byte} (hlen : bytes.length = op.arity) {a : Automaton} {s : State} (hop : a.opcode = op.code)
    (hcnt : a.paramCnt = 0) (hpc : s.auto.pc = a.pc + BitVec.ofNat 26 op.arity) (hp : a.pbuf = s.auto.pbuf)
    (hl : a.lcount = s.auto.lcount) :
    executeBytes (stagedBytes (acceptOperands bytes a)) { s with auto := acceptOperands bytes a } =
      executeBytes (op.code :: bytes) s := by
  have hpc' : (acceptOperands bytes a).pc = s.auto.pc := by rw [acceptOperands_pc, hlen, hpc]
  rcases arity_of_opcodeExecState hst with h3 | h5
  · obtain ⟨b0, b1, b2, rfl⟩ := List.length_eq_three.mp (hlen.trans h3)
    have hA := acceptOperands_three b0 b1 b2 hcnt
    rw [executeBytes_stagedBytes (by rw [hA]; exact hop), exec_of_auto _ _ hpc' (fun _ => by rw [hA]; exact ⟨hp, hl⟩),
      hA]
    exact (executeBytes_three h3 b0 b1 b2 _ _ s).symm
  · obtain ⟨b0, b1, b2, p, c, rfl⟩ : ∃ b0 b1 b2 p c, bytes = [b0, b1, b2, p, c] := by
      match bytes, hlen.trans h5 with
      | [b0, b1, b2, p, c], _ => exact ⟨b0, b1, b2, p, c, rfl⟩
    have hA := acceptOperands_five b0 b1 b2 p c hcnt
    rw [executeBytes_stagedBytes (by rw [hA]; exact hop), exec_of_auto _ _ hpc' (fun h3 => by simp [h5] at h3), hA,
      executeBytes_five]

/-- FETCH_PARAMS from an accepted opcode on fetches and executes what the opcode byte begins (R113 to R116). -/
theorem finishFetchParams_acceptOpcode {b : Byte} (hb : (execState b).isSome = true) (s : State) {a : Automaton}
    (hs : s.auto = { a with pc := a.pc + 1 }) :
    finishFetchParams { s with auto := acceptOpcode b a } =
      executeBytes (b :: (fetchBytes (arity b) s).1) (fetchBytes (arity b) s).2 := by
  obtain ⟨st, hst⟩ := Option.isSome_iff_exists.mp hb
  obtain ⟨op, rfl, hop⟩ := exists_opcode_of_execState hst
  have hk : (acceptOpcode op.code a).nParams.toNat - (acceptOpcode op.code a).paramCnt.toNat = op.arity := by
    rcases arity_of_opcodeExecState hop with h | h <;> simp [acceptOpcode, h]
  have hle : (acceptOpcode op.code a).paramCnt ≤ (acceptOpcode op.code a).nParams := by simp [acceptOpcode]
  have hpc : (acceptOpcode op.code a).pc = s.auto.pc := by rw [hs]; rfl
  have hf := fetchBytes_auto op.arity s
  rw [finishFetchParams_eq hle hb, hk, streamOperands_eq op.arity s _ hpc, arity_code]
  exact executeBytes_acceptOperands hop (fetchBytes_length _ _) rfl rfl (by rw [hf, hpc]) (by rw [hf, hs]; rfl)
    (by rw [hf, hs]; rfl)

end Sys2Proof.Machine
end

section
/-! PROOFS. The refinement of the instruction level by the clock cycle, state by state (00_scope.md R6; 40_automaton.md
R121): a cycle either ends the instruction where the run to the boundary ends it, or leaves that run as it was. -/

namespace Sys2Proof.Machine

/-- The cycle from `s` to `t` ends the instruction: it enters RESET, or enters FETCH_OP from another state. -/
abbrev EndsInstruction (s t : State) : Prop := t.auto.st = .reset ∨ (t.auto.st = .fetchOp ∧ s.auto.st ≠ .fetchOp)

/-- The cycle from `s` to `t`, outside a hand-off, does what the run to the instruction boundary does. -/
abbrev RefinesRun (s t : State) : Prop :=
  (EndsInstruction s t → runToBoundary s = .next t) ∧ (¬ EndsInstruction s t → runToBoundary t = runToBoundary s)

theorem refinesRun_of_end {s t : State} (he : EndsInstruction s t) (h : runToBoundary s = .next t) : RefinesRun s t :=
  ⟨fun _ => h, fun hn => absurd he hn⟩

theorem refinesRun_of_same {s t : State} (he : ¬ EndsInstruction s t) (h : runToBoundary t = runToBoundary s) :
    RefinesRun s t :=
  ⟨fun hn => absurd hn he, fun _ => h⟩

section
variable {inp : Inputs} {s t : State}

/-! ## FETCH_OP -/

/-- A byte with no execute state ends its instruction with the reset action: it is `Reset`, or the decode fault (R116,
R125, R127). -/
theorem runInstruction_of_no_execState (h : execState (fetchByte s).1 = none) :
    runInstruction s = .next (resetAction (fetchByte s).2) := by
  unfold runInstruction
  cases hop : Opcode.ofByte (fetchByte s).1 with
  | none => simp [arity, hop, fetchBytes, executeBytes, decode]
  | some op =>
    cases op with
    | reset => simp [arity, hop, Opcode.arity, fetchBytes, executeBytes, decode, exec, execReset]
    | _ => simp [execState, hop, opcodeExecState] at h

theorem refinesRun_fetchOp (h : Inv s) (hs : s.auto.st = .fetchOp) (hr : inp.rst = false)
    (hc : clock inp s = .next t) : RefinesRun s t := by
  have hreq : request params s.auto = ⟨true, s.auto.pc, false⟩ := by simp [request, hs]
  have hbyte (ha : accepts inp s = true) : fetchByte s = (acceptedByte inp s,
      { s with auto := { s.auto with pc := s.auto.pc + 1 }, adaptor := (adaptorAnswer inp s).next }) := by
    have hline := requestLine_of_accepts h ha
    rw [hreq] at hline
    simp [fetchByte, hline, acceptedByte, hreq]
  rcases clock_fetchOp h hs hr hc with ⟨ha, ht⟩ | ⟨ha, he, ht⟩ | ⟨ha, he, ht⟩
  · have hauto : t.auto = s.auto := by rw [ht]
    refine refinesRun_of_same (by simp [EndsInstruction, hauto, hs]) ?_
    have hline := requestLine_of_not_accepts h (by rw [hreq]) ha
    rw [hreq, ← ht] at hline
    rw [runToBoundary_fetchOp hs, runToBoundary_fetchOp (by rw [hauto, hs])]
    simp only [runInstruction, fetchByte, hauto, hline]
  · refine refinesRun_of_end (.inl (by rw [ht]; rfl)) ?_
    rw [runToBoundary_fetchOp hs, runInstruction_of_no_execState (by rw [hbyte ha]; exact he), hbyte ha, ht]
    rfl
  · have hst : t.auto.st = .fetchParams := by rw [ht]; rfl
    refine refinesRun_of_same (by simp [EndsInstruction, hst]) ?_
    rw [runToBoundary_fetchOp hs, runToBoundary_fetchParams hst, runInstruction, hbyte ha, ht]
    exact finishFetchParams_acceptOpcode he
      { s with auto := { s.auto with pc := s.auto.pc + 1 }, adaptor := (adaptorAnswer inp s).next } rfl

/-! ## FETCH_PARAMS -/

/-- An execute state is neither RESET nor FETCH_OP (R116). -/
theorem execState_ne {b : Byte} {st : AutoState} (h : execState b = some st) : st ≠ .reset ∧ st ≠ .fetchOp := by
  obtain ⟨op, -, hop⟩ := exists_opcode_of_execState h
  cases op <;> simp [opcodeExecState] at hop <;> simp [← hop]

theorem refinesRun_fetchParams (h : Inv s) (hs : s.auto.st = .fetchParams) (hr : inp.rst = false)
    (hc : clock inp s = .next t) : RefinesRun s t := by
  obtain ⟨⟨hsome, -⟩, -⟩ := h.auto.2.1 hs
  have hreq (hlt : s.auto.paramCnt < s.auto.nParams) : request params s.auto = ⟨true, s.auto.pc, false⟩ := by
    simp [request, hs, hlt]
  rcases clock_fetchParams h hs hr hc with ⟨hlt, ha, ht⟩ | ⟨hlt, ha, ht⟩ | ⟨heq, st, hst, ht⟩
  · have hauto : t.auto = s.auto := by rw [ht]
    refine refinesRun_of_same (by simp [EndsInstruction, hauto, hs]) ?_
    have hline := requestLine_of_not_accepts h (by rw [hreq hlt]) ha
    rw [hreq hlt, ← ht] at hline
    rw [runToBoundary_fetchParams hs, runToBoundary_fetchParams (by rw [hauto, hs]), finishFetchParams_of_lt hlt hsome,
      finishFetchParams_of_lt (by rw [hauto]; exact hlt) (by rw [hauto]; exact hsome), hauto, hline]
  · have hst : t.auto.st = .fetchParams := by rw [ht, ← hs]; exact (acceptOperand_frame _ _).1
    refine refinesRun_of_same (by simp [EndsInstruction, hst]) ?_
    have hline := requestLine_of_accepts h ha
    rw [hreq hlt] at hline
    rw [runToBoundary_fetchParams hs, runToBoundary_fetchParams hst, finishFetchParams_of_lt hlt hsome, hline, ht,
      acceptedByte, hreq hlt]
  · obtain ⟨hne, hne'⟩ := execState_ne hst
    refine refinesRun_of_same (by simp [EndsInstruction, ht, hne, hne']) ?_
    rw [runToBoundary_fetchParams hs, finishFetchParams_of_dispatch h hs heq hst, ht]

/-! ## The execute states outside a hand-off -/

/-- A transfer state, whose run to the boundary is the rest of its transfer, given its cycle (R132, R133). -/
theorem refinesRun_transfer {base iters : Nat} {wsel : Bool} (hs : s.auto.st ≠ .reset) (ho : s.auto.st ≠ .fetchOp)
    (hi : iters < 32)
    (hrun : ∀ u : State, u.auto.st = s.auto.st → runToBoundary u = .next (finishTransfer base iters wsel u))
    (hcases : (s.auto.offset.toNat = iters ∧ t = endExecution s) ∨
      (s.auto.offset.toNat < iters ∧ accepts inp s = false ∧ t = { s with adaptor := (adaptorAnswer inp s).next }) ∨
      (s.auto.offset.toNat < iters ∧ accepts inp s = true ∧ t = transferLine base wsel s)) :
    RefinesRun s t := by
  rcases hcases with ⟨heq, rfl⟩ | ⟨hlt, -, ht⟩ | ⟨hlt, -, rfl⟩
  · exact refinesRun_of_end (.inr ⟨rfl, ho⟩) (by rw [hrun s rfl, finishTransfer_of_end heq])
  · have hauto : t.auto = s.auto := by rw [ht]
    refine refinesRun_of_same (by simp [EndsInstruction, hauto, hs, ho]) ?_
    rw [hrun s rfl, hrun t (by rw [hauto]), finishTransfer_of_lt hlt hi,
      finishTransfer_of_lt (by rw [hauto]; exact hlt) hi, ht, transferLine_of_adaptor]
  · have hst : (transferLine base wsel s).auto.st = s.auto.st := by rw [transferLine_auto]
    refine refinesRun_of_same (by simp [EndsInstruction, hst, hs, ho]) ?_
    rw [hrun s rfl, hrun _ hst, finishTransfer_of_lt hlt hi]

theorem refinesRun_configureStates (h : Inv s) (hs : s.auto.st = .configureStates) (hr : inp.rst = false)
    (hc : clock inp s = .next t) : RefinesRun s t := by
  have hne : s.auto.st ≠ .reset := by simp [hs]
  have hb : s.auto.offset.toNat ≤ itersS := by simpa [hs, offsetBound] using h.offset_le
  have hau : automatonAnswer inp s =
      transferCycle stateNodeBase itersS false (accepts inp s) (adaptorAnswer inp s).rdLine s.auto := by
    simp [automatonAnswer, automatonCycle, hs, accepts]
  exact refinesRun_transfer hne (by simp [hs]) (by decide)
    (fun u hu => runToBoundary_configureStates (hu.trans hs))
    (clock_transfer h hne (by simp [hs, AutoState.isHandoff]) hb (by simp [request, hs]) hau hr hc)

theorem refinesRun_configureWeights (h : Inv s) (hs : s.auto.st = .configureWeights) (hr : inp.rst = false)
    (hc : clock inp s = .next t) : RefinesRun s t := by
  have hne : s.auto.st ≠ .reset := by simp [hs]
  have hb : s.auto.offset.toNat ≤ params.itersW := by simpa [hs, offsetBound] using h.offset_le
  have hau : automatonAnswer inp s =
      transferCycle params.weightNodeBase params.itersW true (accepts inp s) (adaptorAnswer inp s).rdLine s.auto := by
    simp [automatonAnswer, automatonCycle, hs, accepts]
  exact refinesRun_transfer hne (by simp [hs]) (by decide)
    (fun u hu => runToBoundary_configureWeights (hu.trans hs))
    (clock_transfer h hne (by simp [hs, AutoState.isHandoff]) hb (by simp [request, hs]) hau hr hc)

theorem refinesRun_debug (h : Inv s) (hs : s.auto.st = .debug) (hr : inp.rst = false) (hc : clock inp s = .next t) :
    RefinesRun s t := by
  have hwait : RefinesRun s s := refinesRun_of_same (by simp [EndsInstruction, hs]) rfl
  rcases clock_debug h hs hr hc with ⟨heq, rfl⟩ | ⟨hne, hw, rfl⟩ | ⟨hne, hw, rfl⟩
  · exact refinesRun_of_end (.inr ⟨rfl, by simp [hs]⟩) (by rw [runToBoundary_debug hs, finishDebug_of_end heq])
  · split
    · have hst : (debugAccept params s).auto.st = .debug := hs
      refine refinesRun_of_same (by simp [EndsInstruction, hst]) ?_
      rw [runToBoundary_debug hs, runToBoundary_debug hst, finishDebug_debugAccept hne hw]
    · exact hwait
  · split
    · have hst : (debugAck s).auto.st = .debug := hs
      refine refinesRun_of_same (by simp [EndsInstruction, hst]) ?_
      rw [runToBoundary_debug hs, runToBoundary_debug hst, finishDebug_debugAck hne hw]
    · exact hwait

/-- Outside RESET and outside a hand-off, in every state. -/
theorem refinesRun_of_clock (h : Inv s) (hs : s.auto.st ≠ .reset) (hh : s.auto.st.isHandoff = false)
    (hr : inp.rst = false) (hc : clock inp s = .next t) : RefinesRun s t := by
  cases hst : s.auto.st with
  | reset => exact absurd hst hs
  | fetchOp => exact refinesRun_fetchOp h hst hr hc
  | fetchParams => exact refinesRun_fetchParams h hst hr hc
  | configureStates => exact refinesRun_configureStates h hst hr hc
  | configureWeights => exact refinesRun_configureWeights h hst hr hc
  | debug => exact refinesRun_debug h hst hr hc
  | loadFeatures => simp [hst, AutoState.isHandoff] at hh
  | storeFeatures => simp [hst, AutoState.isHandoff] at hh
  | run => simp [hst, AutoState.isHandoff] at hh

/-! ## The hand-off states -/

/-- A hand-off that writes `ws`, run to its end (R143, R147). -/
theorem runToBoundary_planWrites (hh : s.auto.st.isHandoff = true) (ws : List LineWrite) :
    runToBoundary (s.planWrites ws) = .next { presentHandoff s with
      auto := { s.auto with st := .fetchOp }
      mem := s.mem.writeLines ws
      dfBusy := false } := by
  have hplan : (s.planWrites ws).auto.st.isHandoff = true := hh
  rw [runToBoundary_handoff hplan]
  unfold finishHandoff presentHandoff
  cases hb : s.dfBusy <;> simp [State.planWrites, hb, dataflowWrites, drawsAfter]

/-- A hand-off already observed is not observed again. -/
theorem presentHandoff_of_busy (h : s.dfBusy = true) : presentHandoff s = s := by
  simp [presentHandoff, h]

/-- The cycle with `df_done` gives what the hand-off with no line left to write gives (R143, R147). -/
theorem handoff_refines_of_done (h : Inv s) (hh : s.auto.st.isHandoff = true) (hr : inp.rst = false)
    (hd : inp.dfDone = true) (hc : clock inp s = .next t) : runToBoundary (s.planWrites []) = .next t := by
  have ht := clock_handoff h hh hr hc
  rw [(clock_next hc).1.dfWrites_eq_nil_of_done hd, hd] at ht
  rw [runToBoundary_planWrites hh, ht]
  rfl

/-- Any other cycle of a hand-off leaves its later writes: the run from before writes the cycle's lines first (R143). -/
theorem handoff_refines_of_not_done (h : Inv s) (hh : s.auto.st.isHandoff = true) (hr : inp.rst = false)
    (hd : inp.dfDone = false) (hc : clock inp s = .next t) (ws : List LineWrite) :
    runToBoundary (t.planWrites ws) = runToBoundary (s.planWrites (inp.dfWrites ++ ws)) := by
  have ht := clock_handoff h hh hr hc
  rw [hd] at ht
  have hauto : t.auto = s.auto := by rw [ht]; rfl
  have hbusy : t.dfBusy = true := by rw [ht]; rfl
  have hht : t.auto.st.isHandoff = true := by rw [hauto, hh]
  rw [runToBoundary_planWrites hh, runToBoundary_planWrites hht, presentHandoff_of_busy hbusy, ht,
    Memory.writeLines_append]
  rfl

end

/-- Settles O55: the cases of one clock cycle, against the run to the boundary in each state. -/
theorem clockCyclesRefineTheInstruction : Obligations.ClockCyclesRefineTheInstruction := by
  unfold Obligations.ClockCyclesRefineTheInstruction
  intro inp s t h hs hr hc
  cases hh : s.auto.st.isHandoff with
  | false =>
    obtain ⟨hend, hsame⟩ := refinesRun_of_clock h hs hh hr hc
    exact ⟨fun he => ⟨fun _ => hend he, nofun⟩, fun hn => ⟨fun _ => hsame hn, nofun⟩⟩
  | true =>
    have hauto : t.auto = if inp.dfDone then { s.auto with st := .fetchOp } else s.auto := by
      rw [clock_handoff h hh hr hc]
    have hne : s.auto.st ≠ .fetchOp := by
      intro ho
      simp [ho, AutoState.isHandoff] at hh
    cases hd : inp.dfDone with
    | true =>
      have hend : EndsInstruction s t := .inr ⟨by rw [hauto, hd]; rfl, hne⟩
      exact ⟨fun _ => ⟨nofun, fun _ => handoff_refines_of_done h hh hr hd hc⟩, fun hn => absurd hend hn⟩
    | false =>
      have hst : t.auto.st = s.auto.st := by rw [hauto, hd]; rfl
      have hgo : ¬ EndsInstruction s t := by simp [EndsInstruction, hst, hs, hne]
      exact ⟨fun he => absurd he hgo, fun _ => ⟨nofun, fun _ => handoff_refines_of_not_done h hh hr hd hc⟩⟩

end Sys2Proof.Machine
end

section
/-! PROOFS. The encoding's length (30_encoding.md R85, R95; 00_scope.md R15) and the image's two regions (R12, R97, R101,
R177). -/

namespace Sys2Proof

/-! ## The opcode byte and the operand count -/

/-- Every instruction has the shape its opcode gives it. -/
theorem encodedShape (i : Instr) : Laws.EncodedShape.Statement i := by
  cases i with
  | reset => exact Laws.EncodedShape.reset
  | configureStates line => exact Laws.EncodedShape.configureStates line
  | configureWeights line => exact Laws.EncodedShape.configureWeights line
  | loadFeatures pbuf lcount line => exact Laws.EncodedShape.loadFeatures pbuf lcount line
  | storeFeatures pbuf lcount line => exact Laws.EncodedShape.storeFeatures pbuf lcount line
  | run len => exact Laws.EncodedShape.run len
  | debug line => exact Laws.EncodedShape.debug line

/-- The arity by the number of the byte, illegal bytes included (R15, R93). -/
theorem arity_eq (b : Byte) : arity b =
    if b.toNat = 2 ∨ b.toNat = 3 ∨ b.toNat = 6 ∨ b.toNat = 7 then 3
    else if b.toNat = 4 ∨ b.toNat = 5 then 5 else 0 := by
  cases hop : Opcode.ofByte b with
  | some op =>
    obtain rfl := Opcode.code_of_ofByte hop
    rw [arity_code]
    cases op <;> rfl
  | none =>
    have hout : b.toNat ≠ 2 ∧ b.toNat ≠ 3 ∧ b.toNat ≠ 4 ∧ b.toNat ≠ 5 ∧ b.toNat ≠ 6 ∧ b.toNat ≠ 7 := by
      refine ⟨?_, ?_, ?_, ?_, ?_, ?_⟩ <;> intro hb <;> simp [Opcode.ofByte, hb] at hop
    simp [arity, hop, hout]

/-- Settles O7: the shape of each encoding, and the arity by the number of the opcode byte. -/
theorem firstByteDecidesTheLength : Obligations.FirstByteDecidesTheLength := by
  unfold Obligations.FirstByteDecidesTheLength
  refine ⟨fun i => ?_, arity_eq⟩
  obtain ⟨operands, henc, hlen⟩ := encodedShape i
  exact ⟨i.opcode.code, operands, henc, by rw [hlen, arity_code]⟩

end Sys2Proof

namespace Sys2Proof.Machine

/-! ## The image -/

theorem padTo_length {n : Nat} {bytes : List Byte} (h : bytes.length ≤ n) : (padTo n bytes).length = n := by
  simp only [padTo, List.length_append, List.length_replicate]
  omega

/-- Padding only adds bytes after those there are. -/
theorem padTo_getElem? {n k : Nat} {bytes : List Byte} (h : k < bytes.length) :
    (padTo n bytes)[k]? = some bytes[k] := by
  rw [padTo, List.getElem?_append_left h, List.getElem?_eq_getElem h]

/-- An image that the builder makes is the two padded regions of a build that fits them (R101, R177). -/
theorem assemble_eq_some {T : Target} {ops : List Operation} {image : List Byte} (h : assemble T ops = some image) :
    (build ops).instrs.length ≤ 512 ∧ (build ops).config.length ≤ 512 ∧
      image = padTo 512 (build ops).instrs ++ padTo 512 (build ops).config := by
  simp only [assemble] at h
  split at h
  · next hok =>
    simp only [Bool.and_eq_true, decide_eq_true_eq] at hok
    obtain ⟨⟨-, hi⟩, hc⟩ := hok
    exact ⟨hi, hc, (Option.some.inj h).symm⟩
  · cases h

/-- The terminator is the last instruction byte (R97, R106). -/
theorem build_instrs_getLast? (ops : List Operation) : (build ops).instrs.getLast? = some 0x01 :=
  List.getLast?_concat

/-- Settles O57: the padded lengths, and the instruction bytes as the image's first bytes. -/
theorem imageIsTwoRegions : Obligations.ImageIsTwoRegions := by
  unfold Obligations.ImageIsTwoRegions
  intro T ops image h
  obtain ⟨hi, hc, rfl⟩ := assemble_eq_some h
  refine ⟨?_, hi, build_instrs_getLast? ops, fun k hk => ?_⟩
  · rw [List.length_append, padTo_length hi, padTo_length hc]
  · rw [List.getElem?_append_left (by rw [padTo_length hi]; omega), padTo_getElem? hk]

end Sys2Proof.Machine
end

section
/-! PROOFS. Every step keeps the legal states (10_state.md R35, R36; 40_automaton.md R116, R119, R122). First the run to the
instruction boundary, which needs little of the state it starts from; the clock cycle is the next section's. -/

namespace Sys2Proof.Machine

/-! ## What the run to the boundary needs and keeps -/

/-- No fetch is outstanding, memory is canonical, and no hand-off is being observed: what a legal state has in every
state of the automaton that makes no request, a hand-off aside. -/
structure Settled (s : State) : Prop where
  idle : s.adaptor.phase = .idle
  mem : s.mem.wf = true
  busy : s.dfBusy = false

/-- In FETCH_PARAMS the opcode is decoded, and the operands are counted within its arity (R31, R116). -/
theorem Inv.decoded_of_fetchParams {s : State} (h : Inv s) (hs : s.auto.st = .fetchParams) :
    s.auto.decoded ∧ s.auto.paramCnt ≤ s.auto.nParams := by
  obtain ⟨-, hparams, -⟩ := h.auto
  exact hparams hs

/-- DEBUG awaits an acknowledge only while lines are left (R36). -/
theorem Inv.offset_lt_of_wrWait {s : State} (h : Inv s) (hw : s.auto.wrWait = true) :
    s.auto.offset.toNat < params.debugLines := by
  obtain ⟨-, -, -, -, hwait⟩ := h.auto
  exact (hwait hw).2

/-- A legal state with no request and no hand-off is settled (R119). -/
theorem Inv.settled {s : State} (h : Inv s) (hq : (request params s.auto).req = false)
    (hh : s.auto.st.isHandoff = false) : Settled s :=
  ⟨h.phase_eq_idle hq, h.mem, h.dfBusy_eq_false hh⟩

/-- In FETCH_OP the counters of the execute states are 0, and nothing else is asked of the automaton (R35, R36). -/
theorem Settled.inv_of_fetchOp {s : State} (h : Settled s) (hs : s.auto.st = .fetchOp) (ho : s.auto.offset = 0)
    (hw : s.auto.wrWait = false) : Inv s where
  auto := by simp [Automaton.Ok, hs, ho, hw]
  adaptor := by simp [Adaptor.Ok, h.idle, hs]
  mem := h.mem
  busy := by simp [h.busy]

/-- With every automaton register 0 and nothing cached, RESET is legal (R122, R168). -/
theorem Settled.inv_of_reset {s : State} (h : Settled s) (ha : s.auto = Automaton.reset)
    (hv : s.adaptor.cValid = false) : Inv s where
  auto := by simp [Automaton.Ok, ha, Automaton.reset]
  adaptor := by simp [Adaptor.Ok, h.idle, hv]
  mem := h.mem
  busy := by simp [h.busy]

/-- The reset action gives a legal RESET state (R126). -/
theorem Settled.inv_resetAction {s : State} (h : Settled s) : Inv (resetAction s) :=
  Settled.inv_of_reset ⟨h.idle, h.mem, h.busy⟩ rfl rfl

/-- The end cycle of a transfer or read-back gives a legal FETCH_OP state (R132, R133, R148). -/
theorem Settled.inv_endExecution {s : State} (h : Settled s) (hw : s.auto.wrWait = false) : Inv (endExecution s) :=
  Settled.inv_of_fetchOp ⟨h.idle, h.mem, h.busy⟩ rfl rfl hw

/-- A completed request leaves no fetch outstanding, whatever was (R68). -/
theorem settled_requestLine {s : State} (hm : s.mem.wf = true) (hb : s.dfBusy = false) (l : LineAddr) (bulk : Bool) :
    Settled (requestLine l bulk s).2 :=
  ⟨requestLine_phase l bulk s, by simpa using hm, by simpa using hb⟩

theorem settled_fetchByte {s : State} (hm : s.mem.wf = true) (hb : s.dfBusy = false) : Settled (fetchByte s).2 :=
  ⟨requestLine_phase _ _ s, by simpa using hm, by simpa using hb⟩

theorem Settled.settled_fetchBytes {s : State} (h : Settled s) (n : Nat) : Settled (fetchBytes n s).2 := by
  induction n generalizing s with
  | zero => exact h
  | succ n ih => exact ih (settled_fetchByte h.mem h.busy)

/-- The first operand byte ends a fetch that is outstanding; with no byte to come none may be (R114, R119). -/
theorem settled_streamOperands {n : Nat} {s : State} (hm : s.mem.wf = true) (hb : s.dfBusy = false)
    (hi : n = 0 → s.adaptor.phase = .idle) : Settled (streamOperands n s) := by
  induction n generalizing s with
  | zero => exact ⟨hi rfl, hm, hb⟩
  | succ n ih =>
    obtain ⟨hi', hm', hb'⟩ := settled_requestLine hm hb (lineOf s.auto.pc) false
    exact ih hm' hb' fun _ => hi'

/-! ## Transfers, DEBUG and hand-offs, run to their end -/

theorem settled_transferLine {s : State} (hm : s.mem.wf = true) (hb : s.dfBusy = false) (base : Nat) (wsel : Bool) :
    Settled (transferLine base wsel s) :=
  ⟨by rw [transferLine_adaptor]; rfl, by simpa using hm, by simpa using hb⟩

theorem transferLine_wrWait (base : Nat) (wsel : Bool) (s : State) :
    (transferLine base wsel s).auto.wrWait = s.auto.wrWait := by
  rw [transferLine_auto]

theorem Settled.inv_transferLines {s : State} (h : Settled s) (hw : s.auto.wrWait = false) (base : Nat) (wsel : Bool)
    (n : Nat) : Inv (endExecution (transferLines base wsel n s)) := by
  induction n generalizing s with
  | zero => exact h.inv_endExecution hw
  | succ n ih =>
    exact ih (settled_transferLine h.mem h.busy base wsel) (by rw [transferLine_wrWait, hw])

theorem Settled.inv_finishTransfer {s : State} (h : Settled s) (hw : s.auto.wrWait = false) {base iters : Nat}
    {wsel : Bool} (hb : s.auto.offset.toNat ≤ iters) : Inv (finishTransfer base iters wsel s) := by
  rw [finishTransfer, if_pos hb]
  exact h.inv_transferLines hw base wsel _

/-- The rest of a transfer: no fetch is outstanding at its end, and its first line ends one that is (R119). -/
theorem Inv.inv_finishTransfer {s : State} (h : Inv s) (hh : s.auto.st.isHandoff = false) (hs : s.auto.st ≠ .debug)
    {base iters : Nat} {wsel : Bool} (hq : request params s.auto = transferRequest iters s.auto)
    (hb : s.auto.offset.toNat ≤ iters) (hi : iters < 32) : Inv (finishTransfer base iters wsel s) := by
  have hw := h.wrWait_eq_false hs
  rcases hb.eq_or_lt with heq | hlt
  · exact (h.settled (by simp [hq, transferRequest, heq, Request.quiet]) hh).inv_finishTransfer hw hb
  · have hoff : (transferLine base wsel s).auto.offset.toNat ≤ iters := by
      rw [transferLine_auto]
      bv_omega
    rw [finishTransfer_of_lt hlt hi]
    exact (settled_transferLine h.mem (h.dfBusy_eq_false hh) base wsel).inv_finishTransfer
      (by rw [transferLine_wrWait, hw]) hoff

theorem Settled.settled_debugAck {s : State} (h : Settled s) : Settled (debugAck s) := ⟨h.idle, h.mem, h.busy⟩

theorem Settled.inv_debugLines {s : State} (h : Settled s) (hw : s.auto.wrWait = false) (P : Params) (n : Nat) :
    Inv (endExecution (debugLines P n s)) := by
  induction n generalizing s with
  | zero => exact h.inv_endExecution hw
  | succ n ih =>
    have hacc : Settled (debugAccept P s) := ⟨h.idle, debugAccept_wf P h.mem, h.busy⟩
    exact ih hacc.settled_debugAck rfl

/-- DEBUG ends with no write outstanding: an acknowledge that is awaited at the start is awaited before the end (R148, R36). -/
theorem Settled.inv_finishDebug {s : State} (h : Settled s)
    (hw : s.auto.wrWait = true → s.auto.offset.toNat < params.debugLines) : Inv (finishDebug params s) := by
  cases hwait : s.auto.wrWait with
  | false =>
    simp only [finishDebug, hwait, Bool.false_and, Bool.false_eq_true, if_false]
    exact h.inv_debugLines hwait params _
  | true =>
    have hne : debugRemaining params s.auto.offset ≠ 0 :=
      (debugRemaining_eq_zero_iff _).not.mpr (hw hwait).ne
    simp only [finishDebug, hwait, hne, ne_eq, not_false_eq_true, decide_true, Bool.and_self, if_true]
    exact h.settled_debugAck.inv_debugLines rfl params _

@[simp] theorem finishHandoff_auto (s : State) : (finishHandoff s).auto = { s.auto with st := .fetchOp } := by
  unfold finishHandoff presentHandoff
  split <;> rfl

@[simp] theorem finishHandoff_adaptor (s : State) : (finishHandoff s).adaptor = s.adaptor := by
  unfold finishHandoff presentHandoff
  split <;> rfl

/-- A hand-off run to its end gives a legal FETCH_OP state: `M` takes whole lines (R143, R147). -/
theorem inv_finishHandoff {s : State} (hi : s.adaptor.phase = .idle) (hm : s.mem.wf = true)
    (ho : s.auto.offset = 0) (hw : s.auto.wrWait = false) : Inv (finishHandoff s) :=
  Settled.inv_of_fetchOp ⟨by simpa using hi, finishHandoff_wf hm, rfl⟩ (by simp) (by simpa using ho) (by simpa using hw)

/-! ## The instructions, and the run to the boundary -/

/-- Every instruction ends in a legal state (R121). -/
theorem Settled.inv_exec {s t : State} (h : Settled s) {i : Instr} (ht : exec i s = .next t) : Inv t := by
  have hstage (op : Opcode) (st : AutoState) (a : BitVec 24) : Settled (stage op st a s) := ⟨h.idle, h.mem, h.busy⟩
  cases i with
  | reset => cases ht; exact h.inv_resetAction
  | configureStates line => cases ht; exact (hstage _ _ _).inv_finishTransfer rfl (Nat.zero_le _)
  | configureWeights line => cases ht; exact (hstage _ _ _).inv_finishTransfer rfl (Nat.zero_le _)
  | loadFeatures pbuf lcount line => cases ht; exact inv_finishHandoff h.idle h.mem rfl rfl
  | storeFeatures pbuf lcount line => cases ht; exact inv_finishHandoff h.idle h.mem rfl rfl
  | run len => cases ht; exact inv_finishHandoff h.idle h.mem rfl rfl
  | debug line => cases ht; exact (hstage _ _ _).inv_finishDebug nofun

/-- Bytes that are no instruction end in RESET, which is a legal state too (R127). -/
theorem Settled.inv_executeBytes {s t : State} (h : Settled s) {bytes : List Byte}
    (ht : executeBytes bytes s = .next t) : Inv t := by
  unfold executeBytes at ht
  split at ht
  · exact h.inv_exec ht
  · cases ht
    exact h.inv_resetAction

/-- FETCH_PARAMS to the boundary: with no operand byte to come there is no request, so no fetch outstanding (R111, R114,
R115). -/
theorem Inv.inv_finishFetchParams {s t : State} (h : Inv s) (hs : s.auto.st = .fetchParams)
    (ht : finishFetchParams s = .next t) : Inv t := by
  obtain ⟨⟨hsome, -⟩, hle⟩ := h.decoded_of_fetchParams hs
  rw [finishFetchParams_eq hle hsome] at ht
  refine Settled.inv_executeBytes (settled_streamOperands h.mem (h.dfBusy_eq_false (by rw [hs]; rfl)) fun h0 => ?_) ht
  have hlt : ¬ s.auto.paramCnt < s.auto.nParams := by bv_omega
  exact h.phase_eq_idle (by simp [request, hs, hlt, Request.quiet])

/-- A hand-off state makes no request (R111). -/
theorem request_handoff {a : Automaton} (hh : a.st.isHandoff = true) (P : Params) : request P a = Request.quiet := by
  unfold request
  cases hs : a.st <;> simp_all [AutoState.isHandoff]

/-- In a hand-off state `offset` is 0 (R35). -/
theorem Inv.offset_eq_zero_of_handoff {s : State} (h : Inv s) (hh : s.auto.st.isHandoff = true) :
    s.auto.offset = 0 := by
  have hb : offsetBound params s.auto.st = 0 := by
    cases hs : s.auto.st <;> simp_all [AutoState.isHandoff, offsetBound]
  exact BitVec.eq_of_toNat_eq (Nat.le_zero.mp (hb ▸ h.offset_le))

theorem AutoState.ne_debug_of_isHandoff {st : AutoState} (hh : st.isHandoff = true) : st ≠ .debug := by
  rintro rfl
  cases hh

/-- The run to the next instruction boundary keeps the legal states (R121). -/
theorem Inv.inv_runToBoundary {s t : State} (h : Inv s) (ht : runToBoundary s = .next t) : Inv t := by
  have hhand (hh : s.auto.st.isHandoff = true) : Inv t := by
    rw [runToBoundary_handoff hh] at ht
    cases ht
    exact inv_finishHandoff (h.phase_eq_idle (by rw [request_handoff hh]; rfl)) h.mem
      (h.offset_eq_zero_of_handoff hh) (h.wrWait_eq_false (AutoState.ne_debug_of_isHandoff hh))
  cases hs : s.auto.st with
  | reset =>
    simp only [runToBoundary, hs] at ht
    cases ht
    exact h
  | fetchOp =>
    rw [runToBoundary_fetchOp hs] at ht
    exact ((settled_fetchByte h.mem (h.dfBusy_eq_false (by rw [hs]; rfl))).settled_fetchBytes _).inv_executeBytes ht
  | fetchParams =>
    rw [runToBoundary_fetchParams hs] at ht
    exact h.inv_finishFetchParams hs ht
  | configureStates =>
    rw [runToBoundary_configureStates hs] at ht
    cases ht
    exact h.inv_finishTransfer (by rw [hs]; rfl) (by simp [hs]) (by simp [request, hs])
      (by simpa [hs, offsetBound] using h.offset_le) (by decide)
  | configureWeights =>
    rw [runToBoundary_configureWeights hs] at ht
    cases ht
    exact h.inv_finishTransfer (by rw [hs]; rfl) (by simp [hs]) (by simp [request, hs])
      (by simpa [hs, offsetBound] using h.offset_le) (by decide)
  | loadFeatures => exact hhand (by rw [hs]; rfl)
  | storeFeatures => exact hhand (by rw [hs]; rfl)
  | run => exact hhand (by rw [hs]; rfl)
  | debug =>
    rw [runToBoundary_debug hs] at ht
    cases ht
    exact (h.settled (by simp [request, hs, Request.quiet]) (by rw [hs]; rfl)).inv_finishDebug
      h.offset_lt_of_wrWait

end Sys2Proof.Machine
end

section
/-! PROOFS. Every clock cycle keeps the legal states, with `rst`, in RESET and in every other state (40_automaton.md R110,
R112, R119; 10_state.md R35, R36). -/

namespace Sys2Proof.Machine

/-! ## The cycles with `rst`, and those of RESET -/

section
variable {inp : Inputs} {s t : State}

/-- In a cycle with `rst` the dataflow core writes nothing (R143). -/
theorem Admitted.dfWrites_eq_nil_of_rst (h : Admitted inp s) (hr : inp.rst = true) : inp.dfWrites = [] := by
  simpa [dataflowBreaksDuty, hr] using h.2

/-- In a cycle with `rst` the host writes nothing (R174). -/
theorem Admitted.hostWrites_eq_nil_of_rst (h : Admitted inp s) (hr : inp.rst = true) : inp.hostWrites = [] := by
  simpa [hostBreaksDuty, hr] using h.1

/-- CORE's cycle with `rst` (R110). -/
theorem coreCycleOf_of_rst (hr : inp.rst = true) :
    coreCycleOf inp s = ⟨Automaton.reset, Adaptor.reset, rstOutputs s.auto⟩ := by
  simp [coreCycleOf, coreCycle, coreInputs, hr]

/-- In a cycle with no fan-out, no line write, no hand-off and nothing of the dataflow core's, the environment's part is
the host's (R174). -/
theorem environmentCycle_of_host {out : CoreOutputs} (hl : out.lanes = lanesOff) (hw : out.wrReq = false)
    (hv : out.dfValid = false) (hdf : inp.dfWrites = []) :
    environmentCycle inp out s = { s with mem := s.mem.writeLines inp.hostWrites, dfBusy := false } := by
  simp [environmentCycle, hostPort, dataflowCore, writePort, hl, hw, hv, hdf]

/-- A cycle with `rst` resets CORE's registers, ends the observation of a hand-off, and does nothing else (R110). -/
theorem clock_rst (hr : inp.rst = true) (hc : clock inp s = .next t) :
    t = { s with auto := Automaton.reset, adaptor := Adaptor.reset, dfBusy := false } := by
  obtain ⟨hadm, -, ht⟩ := clock_next hc
  rw [ht, outputs, coreCycleOf_of_rst hr,
    environmentCycle_of_host rfl rfl rfl (hadm.dfWrites_eq_nil_of_rst hr), hadm.hostWrites_eq_nil_of_rst hr]
  rfl

/-- A cycle of RESET leaves it on `start`, and lets the host write (R112, R174). -/
theorem clock_reset (h : Inv s) (hs : s.auto.st = .reset) (hr : inp.rst = false) (hc : clock inp s = .next t) :
    t = { s with
      auto := if inp.start then { s.auto with st := .fetchOp } else s.auto
      mem := s.mem.writeLines inp.hostWrites
      dfBusy := false } := by
  obtain ⟨hadm, -, ht⟩ := clock_next hc
  obtain ⟨hauto, hadaptor, hlanes, hreq, -, -, hval⟩ := coreCycleOf_of_not_rst (s := s) hr
  have hau : automatonAnswer inp s = .quiet (if inp.start then { s.auto with st := .fetchOp } else s.auto) := by
    simp only [automatonAnswer, automatonCycle, hs]
    rfl
  have hq : (request params s.auto).req = false := by simp [request, hs, Request.quiet]
  rw [hau] at hauto hadaptor hlanes hreq hval
  rw [ht, hauto, hadaptor, adaptorAnswer_next_of_no_request h hq,
    environmentCycle_of_host hlanes hreq hval (hadm.dfWrites_eq_nil (by rw [hs]; rfl))]
  rfl

/-! ## The adaptor -/

/-- A fetch that a cycle leaves outstanding is for the line requested in it (R65, R67, R119). -/
theorem Inv.adaptorAnswer_outstanding (h : Inv s) (hp : (adaptorAnswer inp s).next.phase ≠ .idle) :
    (request params s.auto).req = true ∧
      lineOf (request params s.auto).baddr = (adaptorAnswer inp s).next.aLine := by
  unfold adaptorAnswer adaptorCycle at *
  cases hph : s.adaptor.phase with
  | idle =>
    by_cases hmiss : (request params s.auto).req = true ∧
        s.adaptor.hits (lineOf (request params s.auto).baddr) (request params s.auto).bulk = false
    · simp [adaptorIdle, hmiss]
    · have hkept : (adaptorIdle (request params s.auto) (coreInputs inp s) s.adaptor).next = s.adaptor := by
        unfold adaptorIdle
        split_ifs <;> simp_all
      simp [hph, hkept] at hp
  | issue => exact h.adaptor.1 (by simp [hph])
  | wait =>
    cases hv : inp.rdValid with
    | true => simp [hph, adaptorWait, coreInputs, hv, Adaptor.filled] at hp
    | false => simpa [adaptorWait, coreInputs, hv] using h.adaptor.1 (by simp [hph])

/-- A request that is accepted leaves no fetch outstanding (R64, R68). -/
theorem Inv.adaptorAnswer_idle_of_accepts (h : Inv s) (ha : accepts inp s = true) :
    (adaptorAnswer inp s).next.phase = .idle := by
  have hp := requestLine_phase (lineOf (request params s.auto).baddr) (request params s.auto).bulk s
  rwa [requestLine_of_accepts h ha] at hp

/-- A cycle of the adaptor alone, outside RESET, keeps the legal states: the request stands (R119). -/
theorem Inv.wait (h : Inv s) (hs : s.auto.st ≠ .reset) :
    Inv { s with adaptor := (adaptorAnswer inp s).next } where
  auto := h.auto
  adaptor := ⟨h.adaptorAnswer_outstanding, fun hr => absurd hr hs⟩
  mem := h.mem
  busy := h.busy

/-! ## FETCH_OP and FETCH_PARAMS -/

theorem inv_clock_fetchOp (h : Inv s) (hs : s.auto.st = .fetchOp) (hr : inp.rst = false)
    (hc : clock inp s = .next t) : Inv t := by
  have hb := h.dfBusy_eq_false (by rw [hs]; rfl)
  rcases clock_fetchOp h hs hr hc with ⟨-, rfl⟩ | ⟨ha, -, rfl⟩ | ⟨ha, he, rfl⟩
  · exact h.wait (by simp [hs])
  · exact Settled.inv_resetAction ⟨h.adaptorAnswer_idle_of_accepts ha, h.mem, hb⟩
  · have ho : s.auto.offset.toNat ≤ 0 := by simpa [hs, offsetBound] using h.offset_le
    have hw := h.wrWait_eq_false (by simp [hs])
    refine ⟨?_, ?_, h.mem, fun hb' => absurd hb' (by simp [hb])⟩
    · exact ⟨nofun, fun _ => ⟨⟨he, rfl⟩, Nat.zero_le _⟩, fun _ _ hne => absurd rfl hne, ho,
        fun hw' => absurd hw' (by simp [acceptOpcode, hw])⟩
    · exact ⟨fun hp => absurd (h.adaptorAnswer_idle_of_accepts ha) hp, nofun⟩

/-- `EXEC` never answers FETCH_PARAMS (R116). -/
theorem execState_ne_fetchParams {b : Byte} {st : AutoState} (h : execState b = some st) : st ≠ .fetchParams := by
  obtain ⟨op, -, hop⟩ := exists_opcode_of_execState h
  rintro rfl
  cases op <;> cases hop

theorem acceptOperand_counters (b : Byte) (a : Automaton) :
    (acceptOperand b a).offset = a.offset ∧ (acceptOperand b a).wrWait = a.wrWait := by
  simp only [acceptOperand]
  split_ifs <;> simp

theorem inv_clock_fetchParams (h : Inv s) (hs : s.auto.st = .fetchParams) (hr : inp.rst = false)
    (hc : clock inp s = .next t) : Inv t := by
  obtain ⟨hdec, hle⟩ := h.decoded_of_fetchParams hs
  have hb := h.dfBusy_eq_false (by rw [hs]; rfl)
  have ho : s.auto.offset.toNat ≤ 0 := by simpa [hs, offsetBound] using h.offset_le
  have hw := h.wrWait_eq_false (by simp [hs])
  rcases clock_fetchParams h hs hr hc with ⟨-, -, rfl⟩ | ⟨hlt, ha, rfl⟩ | ⟨heq, st, hst, rfl⟩
  · exact h.wait (by simp [hs])
  · obtain ⟨hst, hop, hn, hcnt⟩ := acceptOperand_frame (acceptedByte inp s) s.auto
    obtain ⟨hoff, hwait⟩ := acceptOperand_counters (acceptedByte inp s) s.auto
    have hle' : s.auto.paramCnt + 1 ≤ s.auto.nParams := by bv_omega
    refine ⟨?_, ?_, h.mem, fun hb' => absurd hb' (by simp [hb])⟩
    · simp only [Automaton.Ok, Automaton.decoded, hst, hop, hn, hcnt, hoff, hwait, hs, hw]
      exact ⟨nofun, fun _ => ⟨hdec, hle'⟩, fun _ _ hne => absurd rfl hne, ho, nofun⟩
    · simp [Adaptor.Ok, hst, hs, h.adaptorAnswer_idle_of_accepts ha]
  · obtain ⟨hne, -⟩ := execState_ne hst
    have hidle := h.phase_eq_idle (by simp [request, hs, heq, Request.quiet])
    refine ⟨?_, ?_, h.mem, fun hb' => absurd hb' (by simp [hb])⟩
    · exact ⟨fun hr' => absurd hr' hne, fun hp => absurd hp (execState_ne_fetchParams hst), fun _ _ _ => ⟨hst, hdec, heq⟩,
        ho.trans (Nat.zero_le _), fun hw' => absurd hw' (by simp [hw])⟩
    · exact ⟨fun hp => absurd hidle hp, fun hr' => absurd hr' hne⟩

/-! ## The execute states -/

/-- Progress within an execute state: only `offset` and `wr_wait` of the automaton move (R35, R36). -/
theorem Inv.progress (h : Inv s) {o : BitVec 5} {w : Bool} (hauto : t.auto = { s.auto with offset := o, wrWait := w })
    (hs : s.auto.st ≠ .reset) (ho : o.toNat ≤ offsetBound params s.auto.st)
    (hw : w = true → s.auto.st = .debug ∧ o.toNat < params.debugLines) (ht : Settled t) : Inv t := by
  obtain ⟨-, hparams, hexec, -⟩ := h.auto
  refine ⟨?_, ⟨fun hp => absurd ht.idle hp, fun hr => ?_⟩, ht.mem, fun hb => absurd hb (by simp [ht.busy])⟩
  · rw [hauto]
    exact ⟨fun hr => absurd hr hs, hparams, hexec, ho, hw⟩
  · rw [hauto] at hr
    exact absurd hr hs

theorem clock_configureStates (h : Inv s) (hs : s.auto.st = .configureStates) (hr : inp.rst = false)
    (hc : clock inp s = .next t) :
    (s.auto.offset.toNat = itersS ∧ t = endExecution s) ∨
    (s.auto.offset.toNat < itersS ∧ accepts inp s = false ∧ t = { s with adaptor := (adaptorAnswer inp s).next }) ∨
    (s.auto.offset.toNat < itersS ∧ accepts inp s = true ∧ t = transferLine stateNodeBase false s) :=
  clock_transfer h (by simp [hs]) (by rw [hs]; rfl) (by simpa [hs, offsetBound] using h.offset_le)
    (by simp [request, hs]) (by simp [automatonAnswer, automatonCycle, hs, accepts]) hr hc

theorem clock_configureWeights (h : Inv s) (hs : s.auto.st = .configureWeights) (hr : inp.rst = false)
    (hc : clock inp s = .next t) :
    (s.auto.offset.toNat = params.itersW ∧ t = endExecution s) ∨
    (s.auto.offset.toNat < params.itersW ∧ accepts inp s = false ∧
      t = { s with adaptor := (adaptorAnswer inp s).next }) ∨
    (s.auto.offset.toNat < params.itersW ∧ accepts inp s = true ∧ t = transferLine params.weightNodeBase true s) :=
  clock_transfer h (by simp [hs]) (by rw [hs]; rfl) (by simpa [hs, offsetBound] using h.offset_le)
    (by simp [request, hs]) (by simp [automatonAnswer, automatonCycle, hs, accepts]) hr hc

/-- A cycle of a transfer keeps the legal states: the end cycle comes before a line past the count (R132, R133, R159). -/
theorem inv_of_transfer {base iters : Nat} {wsel : Bool} (h : Inv s) (hs : s.auto.st ≠ .reset)
    (hd : s.auto.st ≠ .debug) (hh : s.auto.st.isHandoff = false) (hb : offsetBound params s.auto.st = iters)
    (hi : iters < 32) (hq : request params s.auto = transferRequest iters s.auto)
    (hcases : (s.auto.offset.toNat = iters ∧ t = endExecution s) ∨
      (s.auto.offset.toNat < iters ∧ accepts inp s = false ∧ t = { s with adaptor := (adaptorAnswer inp s).next }) ∨
      (s.auto.offset.toNat < iters ∧ accepts inp s = true ∧ t = transferLine base wsel s)) : Inv t := by
  have hw := h.wrWait_eq_false hd
  rcases hcases with ⟨heq, rfl⟩ | ⟨-, -, rfl⟩ | ⟨hlt, -, rfl⟩
  · exact (h.settled (by simp [hq, transferRequest, heq, Request.quiet]) hh).inv_endExecution hw
  · exact h.wait hs
  · refine h.progress (w := s.auto.wrWait) (transferLine_auto base wsel s) hs ?_ (fun hw' => absurd hw' (by simp [hw]))
      (settled_transferLine h.mem (h.dfBusy_eq_false hh) base wsel)
    rw [hb]
    bv_omega

theorem inv_clock_debug (h : Inv s) (hs : s.auto.st = .debug) (hr : inp.rst = false) (hc : clock inp s = .next t) :
    Inv t := by
  have hset : Settled s := h.settled (by simp [request, hs, Request.quiet]) (by rw [hs]; rfl)
  have hne : s.auto.st ≠ .reset := by simp [hs]
  have hb : offsetBound params s.auto.st = params.debugLines := by rw [hs]; rfl
  have hle : s.auto.offset.toNat ≤ params.debugLines := hb ▸ h.offset_le
  rcases clock_debug h hs hr hc with ⟨heq, rfl⟩ | ⟨hlt, -, rfl⟩ | ⟨hlt, -, rfl⟩
  · refine hset.inv_endExecution (Bool.eq_false_iff.mpr fun hw => ?_)
    exact (h.offset_lt_of_wrWait hw).ne heq
  · split
    · exact h.progress (debugAccept_auto params s) hne h.offset_le (fun _ => ⟨hs, hle.lt_of_ne hlt⟩)
        ⟨hset.idle, debugAccept_wf params h.mem, hset.busy⟩
    · exact h
  · split
    · refine h.progress (debugAck_auto s) hne ?_ nofun hset.settled_debugAck
      rw [hb, params_debugLines] at *
      bv_omega
    · exact h

theorem inv_clock_handoff (h : Inv s) (hh : s.auto.st.isHandoff = true) (hr : inp.rst = false)
    (hc : clock inp s = .next t) : Inv t := by
  have ht := clock_handoff h hh hr hc
  have hm : t.mem.wf = true := by
    rw [ht]
    exact Memory.wf_writeLines h.mem _
  have ha : t.adaptor = s.adaptor := by rw [ht, ← presentHandoff_adaptor s]
  cases hd : inp.dfDone with
  | true =>
    have hauto : t.auto = { s.auto with st := .fetchOp } := by rw [ht, hd]; rfl
    have hidle : t.adaptor.phase = .idle := by
      rw [ha]
      exact h.phase_eq_idle (by rw [request_handoff hh]; rfl)
    refine Settled.inv_of_fetchOp ⟨hidle, hm, by rw [ht, hd]; rfl⟩ (by rw [hauto]) ?_ ?_
    · rw [hauto]
      exact h.offset_eq_zero_of_handoff hh
    · rw [hauto]
      exact h.wrWait_eq_false (AutoState.ne_debug_of_isHandoff hh)
  | false =>
    have hauto : t.auto = s.auto := by rw [ht, hd]; rfl
    refine ⟨hauto ▸ h.auto, ?_, hm, fun _ => hauto ▸ hh⟩
    rw [hauto, ha]
    exact h.adaptor

/-! ## RESET, and every state -/

theorem inv_clock_reset (h : Inv s) (hs : s.auto.st = .reset) (hr : inp.rst = false) (hc : clock inp s = .next t) :
    Inv t := by
  have hzero : s.auto = Automaton.reset := h.auto.1 hs
  have hidle : s.adaptor.phase = .idle := (h.adaptor.2 hs).2
  have hm := Memory.wf_writeLines h.mem inp.hostWrites
  rw [clock_reset h hs hr hc]
  cases inp.start with
  | true =>
    refine Settled.inv_of_fetchOp ⟨hidle, ?_, rfl⟩ rfl ?_ ?_
    · exact hm
    · simp [hzero, Automaton.reset]
    · simp [hzero, Automaton.reset]
  | false => exact ⟨h.auto, h.adaptor, hm, nofun⟩

theorem inv_clock_rst (hm : s.mem.wf = true) (hr : inp.rst = true) (hc : clock inp s = .next t) : Inv t := by
  rw [clock_rst hr hc]
  exact Settled.inv_of_reset ⟨rfl, hm, rfl⟩ rfl rfl

/-- Every clock cycle keeps the legal states, whatever its inputs. -/
theorem Inv.inv_clock (h : Inv s) (hc : clock inp s = .next t) : Inv t := by
  cases hr : inp.rst with
  | true => exact inv_clock_rst h.mem hr hc
  | false =>
    cases hs : s.auto.st with
    | reset => exact inv_clock_reset h hs hr hc
    | fetchOp => exact inv_clock_fetchOp h hs hr hc
    | fetchParams => exact inv_clock_fetchParams h hs hr hc
    | configureStates =>
      exact inv_of_transfer h (by simp [hs]) (by simp [hs]) (by rw [hs]; rfl) (by rw [hs]; rfl) (by decide)
        (by simp [request, hs]) (clock_configureStates h hs hr hc)
    | configureWeights =>
      exact inv_of_transfer h (by simp [hs]) (by simp [hs]) (by rw [hs]; rfl) (by rw [hs]; rfl) (by decide)
        (by simp [request, hs]) (clock_configureWeights h hs hr hc)
    | loadFeatures => exact inv_clock_handoff h (by rw [hs]; rfl) hr hc
    | storeFeatures => exact inv_clock_handoff h (by rw [hs]; rfl) hr hc
    | run => exact inv_clock_handoff h (by rw [hs]; rfl) hr hc
    | debug => exact inv_clock_debug h hs hr hc

end

/-- A legal state is one whatever the environment still has to do. -/
theorem Inv.of_environment {s : State} (h : Inv s) (ins : List Inputs) (th : Thereafter) :
    Inv { s with inputs := ins, thereafter := th } :=
  ⟨h.auto, h.adaptor, h.mem, h.busy⟩

/-- Settles O53: a step is a clock cycle or the run to the instruction boundary, and both keep the legal states. -/
theorem stepKeepsTheLegalStates : Obligations.StepKeepsTheLegalStates := by
  unfold Obligations.StepKeepsTheLegalStates
  intro s t h ht
  unfold step at ht
  split at ht
  · next rest _ => exact (h.of_environment rest s.thereafter).inv_clock ht
  · split at ht
    · exact h.inv_runToBoundary ht
    · exact h.inv_clock ht
    · next n _ => exact (h.of_environment s.inputs (.drawn (n + 1))).inv_clock ht

end Sys2Proof.Machine
end

section
/-! PROOFS. A cycle of a hand-off state (43_handoff.md R143, R147; 10_state.md R48), from any state with the adaptor idle. -/

namespace Sys2Proof.Machine

section
variable {inp : Inputs} {s : State}

/-- CORE's outputs in a cycle without `rst` that no state rule assigns (R48, R63, R117). -/
theorem outputs_of_not_rst (hr : inp.rst = false) :
    (outputs inp s).status = s.auto.st.code ∧ (outputs inp s).rdReq = (adaptorAnswer inp s).rdReq ∧
    (outputs inp s).dfOp = s.auto.opcode ∧ (outputs inp s).dfAddr = s.auto.addr ∧
    (outputs inp s).dfPbuf = s.auto.pbuf ∧ (outputs inp s).dfLcount = s.auto.lcount := by
  have hi : ¬ (coreInputs inp s).rst = true := by simp [coreInputs, hr]
  unfold outputs coreCycleOf coreCycle
  rw [if_neg hi]
  exact ⟨rfl, rfl, rfl, rfl, rfl, rfl⟩

/-- The rule of a hand-off state (R143). -/
theorem automatonAnswer_handoff (hh : s.auto.st.isHandoff = true) :
    automatonAnswer inp s = handoffCycle inp.dfDone s.auto := by
  unfold automatonAnswer automatonCycle
  cases hs : s.auto.st <;> simp_all [AutoState.isHandoff, coreInputs]

/-- In a hand-off state the idle adaptor has no request, so it keeps its registers and asks nothing of the memory (R66,
R111). -/
theorem adaptorAnswer_handoff (hh : s.auto.st.isHandoff = true) (hi : s.adaptor.phase = .idle) :
    (adaptorAnswer inp s).next = s.adaptor ∧ (adaptorAnswer inp s).rdReq = false := by
  simp [adaptorAnswer, adaptorCycle, hi, adaptorIdle, request_handoff hh, Request.quiet]

/-- An admitted cycle in a state other than FETCH_PARAMS gives a next state (R116). -/
theorem clock_of_admitted (hadm : Admitted inp s) (hs : s.auto.st ≠ .fetchParams) :
    clock inp s = .next { environmentCycle inp (outputs inp s) s with
      auto := (coreCycleOf inp s).auto, adaptor := (coreCycleOf inp s).adaptor } := by
  have hstuck : dispatchStuck s.auto = false := by simp [dispatchStuck, hs]
  simp [clock, hadm.1, hadm.2, hstuck, outputs]

theorem presentHandoff_nodes (s : State) : SameNodes s (presentHandoff s) := by
  unfold presentHandoff
  split <;> exact ⟨rfl, rfl⟩

/-- The hand-off is observed in its first cycle only (R122). -/
theorem presentHandoff_events (s : State) : (presentHandoff s).events =
    if s.dfBusy = true then s.events else .handOff s.auto.opcode s.auto.addr s.auto.pbuf s.auto.lcount :: s.events := by
  unfold presentHandoff
  split <;> rfl

/-- With the adaptor idle, a cycle of a hand-off state presents the hand-off, lets the dataflow core write, and ends it with
`df_done`, whatever the other registers hold (R143, R147). -/
theorem clock_handoff_of_idle (hadm : Admitted inp s) (hh : s.auto.st.isHandoff = true)
    (hi : s.adaptor.phase = .idle) (hr : inp.rst = false) :
    clock inp s = .next { presentHandoff s with
      auto := if inp.dfDone then { s.auto with st := .fetchOp } else s.auto
      mem := s.mem.writeLines inp.dfWrites
      dfBusy := !inp.dfDone } := by
  obtain ⟨hauto, hadaptor, hlanes, hreq, -, -, hval⟩ := coreCycleOf_of_not_rst (s := s) hr
  have hs : s.auto.st ≠ .reset ∧ s.auto.st ≠ .fetchParams := by
    constructor <;> intro hs <;> simp [hs, AutoState.isHandoff] at hh
  rw [automatonAnswer_handoff hh] at hauto hadaptor hlanes hreq hval
  have hport : writePort inp (outputs inp s) (sinkLanes (outputs inp s).lanes s) = s := by
    rw [writePort, hreq, hlanes]
    rfl
  rw [clock_of_admitted hadm hs.2, hauto, hadaptor, (adaptorAnswer_handoff hh hi).1, environmentCycle, hport, hostPort,
    hadm.hostWrites_eq_nil hs.1, dataflowCore, hval, ← presentHandoff_mem s, ← presentHandoff_adaptor s]
  rfl

end

/-- Settles O38: the outputs by the rule of the state, and the next state by `clock_handoff_of_idle`. -/
theorem handoffIsHeldUntilDone : Obligations.HandoffIsHeldUntilDone := by
  unfold Obligations.HandoffIsHeldUntilDone
  intro inp s hr hadm hh hi
  obtain ⟨hstatus, hrd, hop, haddr, hpbuf, hlcount⟩ := outputs_of_not_rst (s := s) hr
  obtain ⟨-, -, hlanes, hwr, -, -, hval⟩ := coreCycleOf_of_not_rst (s := s) hr
  rw [automatonAnswer_handoff hh] at hlanes hwr hval
  refine ⟨hval, hop, haddr, hpbuf, hlcount, hrd.trans (adaptorAnswer_handoff hh hi).2, hwr, hlanes, hstatus,
    _, clock_handoff_of_idle hadm hh hi hr, rfl, presentHandoff_adaptor s, presentHandoff_nodes s, rfl, fun hd => ?_,
    presentHandoff_events s⟩
  simp [hadm.dfWrites_eq_nil_of_done hd]

end Sys2Proof.Machine
end

section
/-! PROOFS. Who writes the node registers (10_state.md R51; 42_configuration.md R129, R138, R140): the lanes alone, which
carry one weight-select in a cycle, that of the transfer state. -/

namespace Sys2Proof.Machine

/-! ## One weight-select on all lanes -/

/-- What the multiplexer passes to a node comes from a lane (R138). -/
theorem muxNode_wsel {lanes : Vector Lane 4} {w : Bool} (h : ∀ ln ∈ lanes.toList, ln.wsel = w) (n : Nat)
    (hen : (muxNode lanes n).en = true) : (muxNode lanes n).wsel = w := by
  unfold muxNode at *
  split at hen
  · next ln hfind => simpa [hfind] using h ln (List.mem_of_find?_eq_some hfind)
  · cases hen

theorem driveLanes_wsel (base offset : Nat) (w : Bool) (L : Line) :
    ∀ ln ∈ (driveLanes base offset w L).toList, ln.wsel = w := by
  simp [driveLanes, driveLane]

theorem mapNodes_of_id {f : Nat → Byte → Byte} (h : ∀ n b, f n b = b) (v : Vector Byte Config.numNodes) :
    mapNodes f v = v :=
  Vector.ext fun n hn => by rw [mapNodes_get _ _ _ hn, h]

/-- Lanes that select weights leave the state codes (R140). -/
theorem sinkLanes_nodeState_of_wsel {lanes : Vector Lane 4} (h : ∀ ln ∈ lanes.toList, ln.wsel = true) (s : State) :
    (sinkLanes lanes s).nodeState = s.nodeState := by
  unfold sinkLanes
  split
  · refine mapNodes_of_id (fun n b => if_neg ?_) _
    simpa using muxNode_wsel h n
  · rfl

/-- Lanes that select state codes leave the weights (R140). -/
theorem sinkLanes_nodeWeight_of_wsel {lanes : Vector Lane 4} (h : ∀ ln ∈ lanes.toList, ln.wsel = false) (s : State) :
    (sinkLanes lanes s).nodeWeight = s.nodeWeight := by
  unfold sinkLanes
  split
  · refine mapNodes_of_id (fun n b => if_neg ?_) _
    simpa using muxNode_wsel h n
  · rfl

/-! ## Only the rule of a transfer state drives the lanes (R129) -/

@[simp] theorem fetchOpCycle_lanes (b : Byte) (a : Automaton) : (fetchOpCycle b a).lanes = lanesOff := by
  unfold fetchOpCycle
  split <;> rfl

@[simp] theorem fetchParamsCycle_lanes (ready : Bool) (b : Byte) (a : Automaton) :
    (fetchParamsCycle ready b a).lanes = lanesOff := by
  unfold fetchParamsCycle
  split
  · rfl
  · split
    · split <;> rfl
    · rfl

@[simp] theorem debugCycle_lanes (P : Params) (i : CoreInputs) (a : Automaton) :
    (debugCycle P i a).lanes = lanesOff := by
  unfold debugCycle
  split_ifs <;> rfl

/-- The lanes of a transfer are off, or carry its weight-select (R132, R133). -/
theorem transferCycle_lanes (base iters : Nat) (wsel ready : Bool) (L : Line) (a : Automaton) :
    (transferCycle base iters wsel ready L a).lanes = lanesOff ∨
      (transferCycle base iters wsel ready L a).lanes = driveLanes base a.offset.toNat wsel L := by
  unfold transferCycle
  split_ifs
  · exact .inl rfl
  · exact .inr rfl
  · exact .inl rfl

section
variable {inp : Inputs} {s t : State}

theorem automatonAnswer_lanes_off (hs : s.auto.st ≠ .configureStates) (hw : s.auto.st ≠ .configureWeights) :
    (automatonAnswer inp s).lanes = lanesOff := by
  unfold automatonAnswer automatonCycle
  cases hst : s.auto.st with
  | configureStates => exact absurd hst hs
  | configureWeights => exact absurd hst hw
  | fetchOp =>
    dsimp only
    split
    · exact fetchOpCycle_lanes _ _
    · rfl
  | fetchParams => exact fetchParamsCycle_lanes _ _ _
  | debug => exact debugCycle_lanes _ _ _
  | reset => rfl
  | loadFeatures => rfl
  | storeFeatures => rfl
  | run => rfl

theorem automatonAnswer_lanes_configureStates (hs : s.auto.st = .configureStates) :
    (automatonAnswer inp s).lanes = lanesOff ∨
      ∃ offset L, (automatonAnswer inp s).lanes = driveLanes stateNodeBase offset false L := by
  unfold automatonAnswer automatonCycle
  rw [hs]
  exact (transferCycle_lanes _ _ _ _ _ _).imp_right fun h => ⟨_, _, h⟩

theorem automatonAnswer_lanes_configureWeights (hs : s.auto.st = .configureWeights) :
    (automatonAnswer inp s).lanes = lanesOff ∨
      ∃ offset L, (automatonAnswer inp s).lanes = driveLanes params.weightNodeBase offset true L := by
  unfold automatonAnswer automatonCycle
  rw [hs]
  exact (transferCycle_lanes _ _ _ _ _ _).imp_right fun h => ⟨_, _, h⟩

/-! ## The clock cycle -/

/-- Of the environment only the sink writes the node registers (R51, R140). -/
theorem environmentCycle_nodes (inp : Inputs) (out : CoreOutputs) (s : State) :
    SameNodes (sinkLanes out.lanes s) (environmentCycle inp out s) := by
  have hport : SameNodes (sinkLanes out.lanes s) (writePort inp out (sinkLanes out.lanes s)) := by
    unfold writePort
    split <;> exact ⟨rfl, rfl⟩
  unfold environmentCycle hostPort dataflowCore
  dsimp only
  split
  · obtain ⟨hstate, hweight⟩ := presentHandoff_nodes (writePort inp out (sinkLanes out.lanes s))
    exact ⟨hstate.trans hport.1, hweight.trans hport.2⟩
  · exact hport

/-- A cycle without `rst` leaves in the node registers what the sink makes of the automaton's lanes (R51, R140). -/
theorem clock_nodes (hr : inp.rst = false) (hc : clock inp s = .next t) :
    SameNodes (sinkLanes (automatonAnswer inp s).lanes s) t := by
  obtain ⟨-, -, ht⟩ := clock_next hc
  obtain ⟨-, -, hlanes, -⟩ := coreCycleOf_of_not_rst (s := s) hr
  rw [ht, ← hlanes]
  exact environmentCycle_nodes inp (outputs inp s) s

theorem clock_nodeState (hr : inp.rst = false) (hs : s.auto.st ≠ .configureStates) (hc : clock inp s = .next t) :
    t.nodeState = s.nodeState := by
  rw [(clock_nodes hr hc).1]
  by_cases hw : s.auto.st = .configureWeights
  · rcases automatonAnswer_lanes_configureWeights (inp := inp) hw with h | ⟨offset, L, h⟩
    · rw [h, sinkLanes_off]
    · rw [h, sinkLanes_nodeState_of_wsel (driveLanes_wsel _ offset true L)]
  · rw [automatonAnswer_lanes_off hs hw, sinkLanes_off]

theorem clock_nodeWeight (hr : inp.rst = false) (hw : s.auto.st ≠ .configureWeights) (hc : clock inp s = .next t) :
    t.nodeWeight = s.nodeWeight := by
  rw [(clock_nodes hr hc).2]
  by_cases hs : s.auto.st = .configureStates
  · rcases automatonAnswer_lanes_configureStates (inp := inp) hs with h | ⟨offset, L, h⟩
    · rw [h, sinkLanes_off]
    · rw [h, sinkLanes_nodeWeight_of_wsel (driveLanes_wsel _ offset false L)]
  · rw [automatonAnswer_lanes_off hs hw, sinkLanes_off]

end

/-- Settles O49: `rst` touches no node register, and without it only the lanes of the transfer state do. -/
theorem onlyTransfersWriteTheNodes : Obligations.OnlyTransfersWriteTheNodes := by
  unfold Obligations.OnlyTransfersWriteTheNodes
  intro inp s t hc
  cases hr : inp.rst with
  | true =>
    have ht := clock_rst hr hc
    exact ⟨fun hne => absurd (by rw [ht]) hne, fun hne => absurd (by rw [ht]) hne⟩
  | false =>
    refine ⟨fun hne => ⟨?_, rfl⟩, fun hne => ⟨?_, rfl⟩⟩
    · by_contra hs
      exact hne (clock_nodeState hr hs hc)
    · by_contra hw
      exact hne (clock_nodeWeight hr hw hc)

end Sys2Proof.Machine
end

section
/-! PROOFS. The adaptor's cycle, one rule for each of its cases (20_memory.md R62 to R71): a hit, a miss and no
request in the idle phase, ISSUE, and WAIT with and without the line. -/

namespace Sys2Proof.Machine

section
variable {q : Request} {i : CoreInputs} {d : Adaptor}

/-- A hit is answered in the cycle from the cache (R64). -/
theorem adaptorCycle_of_hit (hq : q.req = true) (hh : d.hits (lineOf q.baddr) q.bulk = true) :
    adaptorCycle q i d = { next := d, byteReady := true, rdLine := d.cData, rdReq := false, rdAddr := 0 } := by
  obtain ⟨hp, -⟩ := (Adaptor.hits_iff _ _ _).mp hh
  simp [adaptorCycle, hp, adaptorIdle, hq, hh]

/-- A miss presents the requested line, and waits for it once the memory has accepted it (R65). -/
theorem adaptorCycle_of_miss (hp : d.phase = .idle) (hq : q.req = true)
    (hh : d.hits (lineOf q.baddr) q.bulk = false) :
    adaptorCycle q i d =
      { next := { d with aLine := lineOf q.baddr, phase := if i.rdReady = true then .wait else .issue },
        byteReady := false, rdLine := d.cData, rdReq := true, rdAddr := lineOf q.baddr } := by
  simp [adaptorCycle, hp, adaptorIdle, hq, hh]

/-- With no request the idle adaptor is ready and keeps its registers (R66). -/
theorem adaptorCycle_of_no_request (hp : d.phase = .idle) (hq : q.req = false) :
    adaptorCycle q i d = { next := d, byteReady := true, rdLine := d.cData, rdReq := false, rdAddr := 0 } := by
  simp [adaptorCycle, hp, adaptorIdle, hq]

/-- In ISSUE the recorded line is presented (R67). -/
theorem adaptorCycle_of_issue (hp : d.phase = .issue) :
    adaptorCycle q i d =
      { next := { d with phase := if i.rdReady = true then .wait else .issue },
        byteReady := false, rdLine := d.cData, rdReq := true, rdAddr := d.aLine } := by
  simp [adaptorCycle, hp, adaptorIssue]

/-- In WAIT the line that arrives is cached and passed through (R68). -/
theorem adaptorCycle_of_arrival (hp : d.phase = .wait) (hv : i.rdValid = true) :
    adaptorCycle q i d =
      { next := Adaptor.filled d.aLine i.rdData, byteReady := !q.req || decide (lineOf q.baddr = d.aLine),
        rdLine := i.rdData, rdReq := false, rdAddr := 0 } := by
  simp [adaptorCycle, hp, adaptorWait, hv]

/-- In WAIT without the line nothing changes (R68). -/
theorem adaptorCycle_of_waiting (hp : d.phase = .wait) (hv : i.rdValid = false) :
    adaptorCycle q i d = { next := d, byteReady := false, rdLine := d.cData, rdReq := false, rdAddr := 0 } := by
  simp [adaptorCycle, hp, adaptorWait, hv]

end

/-- Settles O29: a hit, a bulk request as a miss, and no request. -/
theorem cacheHitsOnlyForByteRequests : Obligations.CacheHitsOnlyForByteRequests := by
  unfold Obligations.CacheHitsOnlyForByteRequests
  intro q i d hp
  refine ⟨fun hq hb hv ht => ?_, fun hq hb => ?_, adaptorCycle_of_no_request hp⟩
  · exact adaptorCycle_of_hit hq ((Adaptor.hits_iff _ _ _).mpr ⟨hp, hv, ht, hb⟩)
  · rw [adaptorCycle_of_miss hp hq (by rw [hb, Adaptor.hits_bulk])]
    exact ⟨rfl, rfl, rfl⟩

/-- Settles O30: a miss, ISSUE, and WAIT with and without the line. -/
theorem lineFetchIsIssuedHeldAndCompleted : Obligations.LineFetchIsIssuedHeldAndCompleted := by
  unfold Obligations.LineFetchIsIssuedHeldAndCompleted
  intro q i d
  refine ⟨adaptorCycle_of_miss, adaptorCycle_of_issue, fun hp hv => ?_, fun hp hv => ?_⟩
  · rw [adaptorCycle_of_arrival hp hv]
    exact ⟨rfl, rfl, rfl, by simp⟩
  · rw [adaptorCycle_of_waiting hp hv]
    exact ⟨rfl, rfl, rfl, rfl⟩

/-- Settles O31: the phases of a legal state's adaptor; where `byte_ready` is 1 the request is one run to its end. -/
theorem byteReadyIsLowOnlyDuringAFetch : Obligations.ByteReadyIsLowOnlyDuringAFetch := by
  unfold Obligations.ByteReadyIsLowOnlyDuringAFetch
  intro inp s h hr
  refine ⟨?_, fun hcoh ha => ?_⟩
  · unfold adaptorAnswer
    cases hp : s.adaptor.phase with
    | idle =>
      cases hq : (request params s.auto).req with
      | false => simp [adaptorCycle_of_no_request hp hq]
      | true =>
        cases hh : s.adaptor.hits (lineOf (request params s.auto).baddr) (request params s.auto).bulk with
        | true => simp [adaptorCycle_of_hit hq hh]
        | false => simp [adaptorCycle_of_miss hp hq hh]
    | issue => simp [adaptorCycle_of_issue hp]
    | wait =>
      cases hv : inp.rdValid with
      | true => simp [adaptorCycle_of_arrival (i := coreInputs inp s) hp hv, h.aLine_eq (by simp [hp])]
      | false => simp [adaptorCycle_of_waiting (i := coreInputs inp s) hp hv]
  · rw [← requestLine_line_of_coherent _ (request params s.auto).bulk hcoh, requestLine_of_accepts h ha]

end Sys2Proof.Machine
end

section
/-! PROOFS. The instruction bytes fetched from a coherent cache (20_memory.md R54, R70; 40_automaton.md R118), and the
stale line of R83. -/

namespace Sys2Proof.Machine

/-- A completed request keeps the cache in agreement with `M` (R68). -/
theorem coherent_requestLine (l : LineAddr) (bulk : Bool) {s : State} (h : Coherent s) :
    Coherent (requestLine l bulk s).2 := by
  intro _
  obtain ⟨-, htag, hdata⟩ := requestLine_cached l bulk s
  rw [hdata, htag, requestLine_mem, requestLine_line_of_coherent l bulk h]

/-- The byte presented is that of `M` at `pc` (R54, R70). -/
theorem fetchByte_of_coherent {s : State} (h : Coherent s) : (fetchByte s).1 = memByte s.mem s.auto.pc := by
  simp only [fetchByte, memByte, requestLine_line_of_coherent _ _ h]

theorem coherent_fetchByte {s : State} (h : Coherent s) : Coherent (fetchByte s).2 :=
  coherent_requestLine _ false h

/-- The bytes of `M` from `b` on are the byte at `b` and those from `b + 1` on (R85). -/
theorem memBytes_succ (m : Memory) (b : ByteAddr) (n : Nat) :
    memBytes m b (n + 1) = memByte m b :: memBytes m (b + 1) n := by
  have hnext (k : Nat) : b + BitVec.ofNat 26 (k + 1) = b + 1 + BitVec.ofNat 26 k := by
    rw [BitVec.ofNat_add, BitVec.add_comm (BitVec.ofNat 26 k), ← BitVec.add_assoc]
    rfl
  simp only [memBytes, List.range_succ_eq_map, List.map_cons, List.map_map, Function.comp_def,
    Nat.succ_eq_add_one, hnext]
  simp

theorem fetchBytes_of_coherent (n : Nat) {s : State} (h : Coherent s) :
    (fetchBytes n s).1 = memBytes s.mem s.auto.pc n ∧ Coherent (fetchBytes n s).2 := by
  induction n generalizing s with
  | zero => exact ⟨rfl, h⟩
  | succ n ih =>
    obtain ⟨hbytes, hcoh⟩ := ih (coherent_fetchByte h)
    refine ⟨?_, hcoh⟩
    rw [fetchBytes, memBytes_succ, hbytes, fetchByte_of_coherent h, fetchByte_mem, fetchByte_auto]

/-- The last of `n + 1` bytes is fetched after `n`. -/
theorem fetchBytes_succ_state (n : Nat) (s : State) :
    (fetchBytes (n + 1) s).2 = (fetchByte (fetchBytes n s).2).2 := by
  induction n generalizing s with
  | zero => rfl
  | succ n ih => exact ih (fetchByte s).2

/-- Settles O12: byte by byte, and the last byte's request for what is cached at the end. -/
theorem fetchPresentsTheBytesOfMemory : Obligations.FetchPresentsTheBytesOfMemory := by
  unfold Obligations.FetchPresentsTheBytesOfMemory
  intro s n h
  obtain ⟨hbytes, hcoh⟩ := fetchBytes_of_coherent n h
  obtain ⟨hvalid, htag, -⟩ := requestLine_cached (lineOf (fetchBytes n s).2.auto.pc) false (fetchBytes n s).2
  have hpc : (fetchBytes n s).2.auto.pc = s.auto.pc + BitVec.ofNat 26 n := by rw [fetchBytes_frame]
  rw [fetchBytes_succ_state, ← hpc]
  exact ⟨hbytes, hcoh, hvalid, requestLine_phase _ false _, htag⟩

/-- Settles O13: the request for the line of `pc` hits. -/
theorem cachedLineIsPresentedAsFetched : Obligations.CachedLineIsPresentedAsFetched := by
  unfold Obligations.CachedLineIsPresentedAsFetched
  intro s hp hv ht
  have hh : s.adaptor.hits (lineOf s.auto.pc) false = true := (Adaptor.hits_iff _ _ _).mpr ⟨hp, hv, ht, rfl⟩
  simp [fetchByte, requestLine, hh]

end Sys2Proof.Machine
end

section
/-! PROOFS. Who writes `M` in a clock cycle, and the line write that DEBUG holds (20_memory.md R57, R59, R77;
43_handoff.md R143; 44_debug.md R148; 70_reset_and_hazards.md R174), from any state. -/

namespace Sys2Proof.Machine

/-! ## The write port: only the rule of DEBUG presents a line (R148) -/

@[simp] theorem fetchOpCycle_wrReq (b : Byte) (a : Automaton) : (fetchOpCycle b a).wrReq = false := by
  unfold fetchOpCycle
  split <;> rfl

@[simp] theorem fetchParamsCycle_wrReq (ready : Bool) (b : Byte) (a : Automaton) :
    (fetchParamsCycle ready b a).wrReq = false := by
  unfold fetchParamsCycle
  split
  · rfl
  · split
    · split <;> rfl
    · rfl

@[simp] theorem transferCycle_wrReq (base iters : Nat) (wsel ready : Bool) (L : Line) (a : Automaton) :
    (transferCycle base iters wsel ready L a).wrReq = false := by
  unfold transferCycle
  split_ifs <;> rfl

/-- DEBUG presents a line while lines are left and none awaits its acknowledge (R148). -/
theorem debugCycle_wrReq_iff (P : Params) (i : CoreInputs) (a : Automaton) :
    (debugCycle P i a).wrReq = true ↔ a.offset.toNat ≠ P.debugLines ∧ a.wrWait = false := by
  unfold debugCycle
  split_ifs <;> simp_all [AutoCycle.quiet]

section
variable {inp : Inputs} {s t : State}

theorem automatonAnswer_debug (hs : s.auto.st = .debug) :
    automatonAnswer inp s = debugCycle params (coreInputs inp s) s.auto := by
  simp [automatonAnswer, automatonCycle, hs]

theorem automatonAnswer_wrReq_of_ne_debug (hs : s.auto.st ≠ .debug) : (automatonAnswer inp s).wrReq = false := by
  unfold automatonAnswer automatonCycle
  cases hst : s.auto.st with
  | debug => exact absurd hst hs
  | fetchOp =>
    dsimp only
    split
    · exact fetchOpCycle_wrReq _ _
    · rfl
  | fetchParams => exact fetchParamsCycle_wrReq _ _ _
  | configureStates => exact transferCycle_wrReq _ _ _ _ _ _
  | configureWeights => exact transferCycle_wrReq _ _ _ _ _ _
  | reset => rfl
  | loadFeatures => rfl
  | storeFeatures => rfl
  | run => rfl

/-- The states in which a line is presented (R148). -/
theorem automatonAnswer_wrReq_iff : (automatonAnswer inp s).wrReq = true ↔
    s.auto.st = .debug ∧ s.auto.offset.toNat ≠ params.debugLines ∧ s.auto.wrWait = false := by
  by_cases hs : s.auto.st = .debug
  · simp only [automatonAnswer_debug hs, debugCycle_wrReq_iff, hs, true_and]
  · simp [automatonAnswer_wrReq_of_ne_debug hs, hs]

/-- The cycle that presents a line: its address and its data, and `wr_wait` set where the port accepts it (R148,
R149). -/
theorem automatonAnswer_of_wrReq (h : (automatonAnswer inp s).wrReq = true) :
    (automatonAnswer inp s).wrAddr = lineAt s.auto.addr s.auto.offset ∧
    (automatonAnswer inp s).wrData = snap params s.nodeState s.nodeWeight s.auto.offset.toNat ∧
    (automatonAnswer inp s).next = (if inp.wrReady then { s.auto with wrWait := true } else s.auto) := by
  obtain ⟨hs, hn, hw⟩ := automatonAnswer_wrReq_iff.mp h
  rw [automatonAnswer_debug hs, debugCycle, if_neg hn, hw]
  exact ⟨rfl, rfl, rfl⟩

/-- Settles O40: what DEBUG presents depends on registers that a cycle without acceptance keeps. -/
theorem writeIsHeldUntilAccepted : Obligations.WriteIsHeldUntilAccepted := by
  unfold Obligations.WriteIsHeldUntilAccepted
  intro inp inp' s t hr hr' hc hreq hready
  obtain ⟨-, -, ht⟩ := clock_next hc
  obtain ⟨hauto, -, -, hwr, haddr, hdata, -⟩ := coreCycleOf_of_not_rst (s := s) hr
  obtain ⟨-, -, -, hwr', haddr', hdata', -⟩ := coreCycleOf_of_not_rst (s := t) hr'
  have hline := hwr.symm.trans hreq
  obtain ⟨hs, hn, hw⟩ := automatonAnswer_wrReq_iff.mp hline
  obtain ⟨ha, hd, hnext⟩ := automatonAnswer_of_wrReq hline
  have hkeep : t.auto = s.auto := by
    rw [ht]
    simpa [hready] using hauto.trans hnext
  have hstate := clock_nodeState hr (by simp [hs]) hc
  have hweight := clock_nodeWeight hr (by simp [hs]) hc
  have hline' : (automatonAnswer inp' t).wrReq = true :=
    automatonAnswer_wrReq_iff.mpr (by rw [hkeep]; exact ⟨hs, hn, hw⟩)
  obtain ⟨ha', hd', -⟩ := automatonAnswer_of_wrReq hline'
  refine ⟨hwr'.trans hline', ?_, ?_⟩
  · rw [haddr', haddr, ha', ha, hkeep]
  · rw [hdata', hdata, hd', hd, hkeep, hstate, hweight]

/-! ## The three writers -/

@[simp] theorem writePort_mem (inp : Inputs) (out : CoreOutputs) (s : State) : (writePort inp out s).mem =
    if out.wrReq && inp.wrReady then s.mem.writeLine out.wrAddr out.wrData else s.mem := by
  unfold writePort
  split <;> rfl

/-- In a cycle `M` takes the port's line, then the dataflow core's lines, then the host's. -/
theorem environmentCycle_mem (inp : Inputs) (out : CoreOutputs) (s : State) : (environmentCycle inp out s).mem =
    ((if out.wrReq && inp.wrReady then s.mem.writeLine out.wrAddr out.wrData else s.mem).writeLines
      inp.dfWrites).writeLines inp.hostWrites := by
  rw [← sinkLanes_mem out.lanes s, ← writePort_mem]
  unfold environmentCycle hostPort dataflowCore
  dsimp only
  split
  · rw [presentHandoff_mem]
  · rfl

theorem clock_mem (hc : clock inp s = .next t) : t.mem =
    ((if (outputs inp s).wrReq && inp.wrReady then s.mem.writeLine (outputs inp s).wrAddr (outputs inp s).wrData
      else s.mem).writeLines inp.dfWrites).writeLines inp.hostWrites := by
  obtain ⟨-, -, ht⟩ := clock_next hc
  rw [ht]
  exact environmentCycle_mem inp (outputs inp s) s

/-- With a fetch outstanding the host writes nothing (R59, R174). -/
theorem Admitted.hostWrites_eq_nil_of_outstanding (h : Admitted inp s) (hp : s.adaptor.phase ≠ .idle) :
    inp.hostWrites = [] := by
  simpa [hostBreaksDuty, hp] using h.1

/-- Settles O48: the three writes of a cycle, and the states in which each may be other than nothing. -/
theorem onlyThreeAgentsWriteMemory : Obligations.OnlyThreeAgentsWriteMemory := by
  unfold Obligations.OnlyThreeAgentsWriteMemory
  intro inp s t hc
  obtain ⟨hadm, -, -⟩ := clock_next hc
  have hmem := clock_mem hc
  cases hr : inp.rst with
  | true => exact .inl (by rw [clock_rst hr hc])
  | false =>
    obtain ⟨-, -, -, hwr, -, -, hval⟩ := coreCycleOf_of_not_rst (s := s) hr
    rw [automatonAnswer_dfValid] at hval
    by_cases hs : s.auto.st = .reset
    · rw [hwr, automatonAnswer_wrReq_of_ne_debug (by simp [hs]), hadm.dfWrites_eq_nil (by rw [hs]; rfl)] at hmem
      by_cases hp : s.adaptor.phase = .idle
      · exact .inr (.inr (.inr ⟨hs, hp, hmem⟩))
      · exact .inl (by rw [hmem, hadm.hostWrites_eq_nil_of_outstanding hp]; rfl)
    · rw [hadm.hostWrites_eq_nil hs, Memory.writeLines_nil] at hmem
      cases hh : s.auto.st.isHandoff with
      | true =>
        rw [hwr, automatonAnswer_wrReq_of_ne_debug (AutoState.ne_debug_of_isHandoff hh)] at hmem
        cases hd : inp.dfDone with
        | true => exact .inl (by rw [hmem, hadm.dfWrites_eq_nil_of_done hd]; rfl)
        | false => exact .inr (.inr (.inl ⟨rfl, hval.trans hh, rfl, hmem⟩))
      | false =>
        rw [hadm.dfWrites_eq_nil hh, Memory.writeLines_nil] at hmem
        by_cases hacc : (outputs inp s).wrReq = true ∧ inp.wrReady = true
        · obtain ⟨hreq, hready⟩ := hacc
          obtain ⟨hdebug, -⟩ := automatonAnswer_wrReq_iff.mp (hwr.symm.trans hreq)
          exact .inr (.inl ⟨hdebug, hreq, hready, by simpa [hreq, hready] using hmem⟩)
        · exact .inl (by rw [hmem, if_neg (by simpa using hacc)])

/-- Settles O51: the two guards of a clock cycle. -/
theorem unadmittedWritesAreRefused : Obligations.UnadmittedWritesAreRefused := by
  unfold Obligations.UnadmittedWritesAreRefused
  refine ⟨fun inp s hw hout => ?_, fun inp s hw hdf hout => ?_⟩
  · have hbreak : hostBreaksDuty inp s = true := by simpa [hostBreaksDuty, hw, or_assoc] using hout
    rw [clock, if_pos hbreak]
  · have hkeep : ¬ hostBreaksDuty inp s = true := by simp [hostBreaksDuty, hw]
    have hbreak : dataflowBreaksDuty inp s = true := by simpa [dataflowBreaksDuty, hdf, or_assoc] using hout
    rw [clock, if_neg hkeep, if_pos hbreak]

/-! ## The reset action in the cycle of the line (R72, R126) -/

/-- FETCH_OP acts on the byte it accepts (R113). -/
theorem automatonAnswer_fetchOp (hs : s.auto.st = .fetchOp) : automatonAnswer inp s =
    if accepts inp s then fetchOpCycle (acceptedByte inp s) s.auto else .quiet s.auto := by
  simp [automatonAnswer, automatonCycle, hs, accepts, acceptedByte]

/-- Where FETCH_OP waits for the line of `pc`, the line that arrives is cached, and the byte of `M` at `pc` accepted
(R68, R69). -/
theorem fetchOp_arrival (hs : s.auto.st = .fetchOp) (hp : s.adaptor.phase = .wait) (hv : inp.rdValid = true)
    (hl : s.adaptor.aLine = lineOf s.auto.pc) :
    accepts inp s = true ∧ acceptedByte inp s = memByte s.mem s.auto.pc ∧
      (adaptorAnswer inp s).next = Adaptor.filled (lineOf s.auto.pc) (s.mem.readLine (lineOf s.auto.pc)) := by
  have hq : request params s.auto = ⟨true, s.auto.pc, false⟩ := by simp [request, hs]
  have hans : adaptorAnswer inp s =
      { next := Adaptor.filled (lineOf s.auto.pc) (s.mem.readLine (lineOf s.auto.pc)), byteReady := true,
        rdLine := s.mem.readLine (lineOf s.auto.pc), rdReq := false, rdAddr := 0 } := by
    rw [adaptorAnswer, adaptorCycle_of_arrival hp hv]
    simp [hq, hl, coreInputs]
  refine ⟨?_, ?_, by rw [hans]⟩
  · simp [accepts, hq, hans]
  · simp [acceptedByte, hq, hans, memByte]

/-- Settles O32: the accepted byte takes the reset action, whose clear is put over the fill. -/
theorem cacheClearWinsOverAFill : Obligations.CacheClearWinsOverAFill := by
  unfold Obligations.CacheClearWinsOverAFill
  intro inp s hr hadm hs hp hv hl he
  obtain ⟨hacc, hbyte, hfill⟩ := fetchOp_arrival hs hp hv hl
  obtain ⟨hauto, hadaptor, -⟩ := coreCycleOf_of_not_rst (s := s) hr
  have hau : automatonAnswer inp s = { AutoCycle.quiet Automaton.reset with clear := true } := by
    rw [automatonAnswer_fetchOp hs, if_pos hacc, fetchOpCycle, hbyte, he]
  rw [hau] at hauto hadaptor
  rw [hfill] at hadaptor
  refine ⟨_, clock_of_admitted hadm (by simp [hs]), hadaptor, ?_, ?_⟩
  · rw [hauto]
    rfl
  · rw [hauto]
    rfl

end

end Sys2Proof.Machine
end

section
/-! PROOFS. The instructions and the cached line (20_memory.md R83; 44_debug.md R151; 70_reset_and_hazards.md R175).
-/

namespace Sys2Proof.Machine

/-- Line writes elsewhere leave a line as it was (R59). -/
theorem Memory.readLine_writeLines_other (m : Memory) {ws : List LineWrite} {l : LineAddr}
    (h : ∀ w ∈ ws, w.line ≠ l) : (m.writeLines ws).readLine l = m.readLine l := by
  refine Vector.ext fun i hi => ?_
  rw [Memory.readLine_get _ _ hi, Memory.readLine_get _ _ hi]
  exact Memory.read_writeLines_other m ws fun w hw j hj heq => h w hw (byteKey_inj hi hj heq).1.symm

theorem coherent_of_invalid {s : State} (h : s.adaptor.cValid = false) : Coherent s :=
  fun hv => absurd hv (by simp [h])

/-- A line of a transfer is cached as `M` holds it (R68, R71). -/
theorem coherent_transferLine (base : Nat) (wsel : Bool) (s : State) : Coherent (transferLine base wsel s) := by
  intro _
  rw [transferLine_adaptor, transferLine_mem]
  rfl

theorem coherent_transferLines (base : Nat) (wsel : Bool) (n : Nat) {s : State} (h : Coherent s) :
    Coherent (transferLines base wsel n s) := by
  induction n generalizing s with
  | zero => exact h
  | succ n ih => exact ih (coherent_transferLine base wsel s)

theorem coherent_finishTransfer (base iters : Nat) (wsel : Bool) {s : State} (h : Coherent s) :
    Coherent (finishTransfer base iters wsel s) := by
  unfold finishTransfer
  split
  · exact coherent_transferLines base wsel _ h
  · exact h

/-- The acknowledge of DEBUG's last line leaves nothing cached (R151). -/
theorem debugLines_cValid (P : Params) {n : Nat} (hn : n ≠ 0) (s : State) :
    (debugLines P n s).adaptor.cValid = false := by
  induction n generalizing s with
  | zero => exact absurd rfl hn
  | succ n ih =>
    cases n with
    | zero => rfl
    | succ n => exact ih (Nat.succ_ne_zero n) _

/-- DEBUG with lines to write ends with nothing cached (R151). -/
theorem finishDebug_cValid {P : Params} {s : State} (hw : s.auto.wrWait = false)
    (hn : debugRemaining P s.auto.offset ≠ 0) : (finishDebug P s).adaptor.cValid = false := by
  simp only [finishDebug, hw, Bool.false_and, Bool.false_eq_true, if_false]
  exact debugLines_cValid P hn s

/-- A hand-off keeps the agreement where the dataflow core does not write the cached line (R83). -/
theorem coherent_performHandoff {s : State} (h : Coherent s)
    (hw : ∀ w ∈ dataflowWrites s, w.line ≠ s.adaptor.cTag) : Coherent (performHandoff s) := by
  intro hv
  rw [performHandoff_adaptor, performHandoff_mem, Memory.readLine_writeLines_other _ hw]
  exact h hv

/-- Settles O50: what each instruction leaves in the cache. -/
theorem cacheStaysCoherentButForTheDataflowCore : Obligations.CacheStaysCoherentButForTheDataflowCore := by
  unfold Obligations.CacheStaysCoherentButForTheDataflowCore
  intro i s t h ht hw
  cases i with
  | reset => cases ht; exact coherent_of_invalid rfl
  | configureStates line => cases ht; exact coherent_finishTransfer _ _ _ h
  | configureWeights line => cases ht; exact coherent_finishTransfer _ _ _ h
  | loadFeatures pbuf lcount line => cases ht; exact coherent_performHandoff h (hw rfl)
  | storeFeatures pbuf lcount line => cases ht; exact coherent_performHandoff h (hw rfl)
  | run len => cases ht; exact coherent_performHandoff h (hw rfl)
  | debug line =>
    cases ht
    exact coherent_of_invalid (finishDebug_cValid rfl (show debugRemaining params 0 ≠ 0 by decide))

end Sys2Proof.Machine
end

section
/-! PROOFS. The cycle counts with the reference memory (20_memory.md R60; 42_configuration.md R136; 44_debug.md R150):
a line is two cycles, and the end one more. -/

namespace Sys2Proof.Machine

/-! ## Cycles with the reference memory -/

theorem exists_clock_of_admitted {inp : Inputs} {s : State} (hadm : Admitted inp s) (hs : s.auto.st ≠ .fetchParams) :
    ∃ t, clock inp s = .next t :=
  ⟨_, clock_of_admitted hadm hs⟩

/-- With the reference memory neither the host nor the dataflow core writes, so the cycle gives a state. -/
theorem exists_referenceClock (done : Bool) {s : State} (hs : s.auto.st ≠ .fetchParams) :
    ∃ t, referenceClock done s = .next t :=
  exists_clock_of_admitted ⟨rfl, rfl⟩ hs

theorem referenceClocks_of_next {done : Bool} {s t : State} (h : referenceClock done s = .next t) (n : Nat) :
    referenceClocks done (n + 1) s = referenceClocks done n t := by
  simp [referenceClocks, h]

/-! ## Transfers -/

/-- What CONFIGURE_STATES and CONFIGURE_WEIGHTS share: a transfer of `iters` lines from node `base` on, with its
requests and its three kinds of cycle (R111, R132, R133). -/
structure IsTransfer (st : AutoState) (base iters : Nat) (wsel : Bool) : Prop where
  ne_reset : st ≠ .reset
  ne_fetchParams : st ≠ .fetchParams
  iters_lt : iters < 32
  request_eq {a : Automaton} (hs : a.st = st) : request params a = transferRequest iters a
  clock_cases {inp : Inputs} {s t : State} (h : Inv s) (hs : s.auto.st = st) (hr : inp.rst = false)
    (hc : clock inp s = .next t) :
    (s.auto.offset.toNat = iters ∧ t = endExecution s) ∨
    (s.auto.offset.toNat < iters ∧ accepts inp s = false ∧ t = { s with adaptor := (adaptorAnswer inp s).next }) ∨
    (s.auto.offset.toNat < iters ∧ accepts inp s = true ∧ t = transferLine base wsel s)

theorem isTransfer_configureStates : IsTransfer .configureStates stateNodeBase itersS false where
  ne_reset := nofun
  ne_fetchParams := nofun
  iters_lt := by decide
  request_eq hs := by simp [request, hs]
  clock_cases := clock_configureStates

theorem isTransfer_configureWeights : IsTransfer .configureWeights params.weightNodeBase params.itersW true where
  ne_reset := nofun
  ne_fetchParams := nofun
  iters_lt := by decide
  request_eq hs := by simp [request, hs]
  clock_cases := clock_configureWeights

section
variable {st : AutoState} {base iters : Nat} {wsel : Bool} {s : State}

/-- With lines left a transfer requests the line at `offset` (R111). -/
theorem IsTransfer.request_of_lt (T : IsTransfer st base iters wsel) (hs : s.auto.st = st)
    (hlt : s.auto.offset.toNat < iters) :
    request params s.auto = ⟨true, firstByteOf (lineAt s.auto.addr s.auto.offset), true⟩ := by
  rw [T.request_eq hs, transferRequest, if_pos hlt]

/-- With the reference memory a request for a line is accepted at once, and awaited (R60, R65). -/
theorem IsTransfer.referenceClock_idle (T : IsTransfer st base iters wsel) (h : Inv s) (hs : s.auto.st = st)
    (hi : s.adaptor.phase = .idle) (hlt : s.auto.offset.toNat < iters) :
    referenceClock false s = .next { s with adaptor :=
      { s.adaptor with aLine := lineAt s.auto.addr s.auto.offset, phase := .wait } } := by
  obtain ⟨t, hc⟩ := exists_referenceClock false (s := s) (hs ▸ T.ne_fetchParams)
  have hq := T.request_of_lt hs hlt
  have hmiss : adaptorAnswer (referenceInputs false s) s =
      { next := { s.adaptor with aLine := lineAt s.auto.addr s.auto.offset, phase := .wait },
        byteReady := false, rdLine := s.adaptor.cData, rdReq := true,
        rdAddr := lineAt s.auto.addr s.auto.offset } := by
    rw [adaptorAnswer, adaptorCycle_of_miss hi (by rw [hq]) (by rw [hq, Adaptor.hits_bulk])]
    simp [hq, coreInputs, referenceInputs]
  rcases T.clock_cases h hs rfl hc with ⟨heq, -⟩ | ⟨-, -, rfl⟩ | ⟨-, ha, -⟩
  · exact absurd heq hlt.ne
  · rw [hc, hmiss]
  · simp [accepts, hmiss] at ha

/-- With the reference memory the line awaited arrives (R60, R68). -/
theorem IsTransfer.referenceClock_wait (T : IsTransfer st base iters wsel) (h : Inv s) (hs : s.auto.st = st)
    (hw : s.adaptor.phase = .wait) (hlt : s.auto.offset.toNat < iters) :
    referenceClock false s = .next (transferLine base wsel s) := by
  obtain ⟨t, hc⟩ := exists_referenceClock false (s := s) (hs ▸ T.ne_fetchParams)
  have ha : accepts (referenceInputs false s) s = true := by
    have hv : (coreInputs (referenceInputs false s) s).rdValid = true := by simp [coreInputs, referenceInputs, hw]
    have hl : lineAt s.auto.addr s.auto.offset = s.adaptor.aLine := by
      simpa [T.request_of_lt hs hlt] using h.aLine_eq (by simp [hw])
    simp [accepts, adaptorAnswer, adaptorCycle_of_arrival hw hv, T.request_of_lt hs hlt, hl]
  rcases T.clock_cases h hs rfl hc with ⟨heq, -⟩ | ⟨-, hna, -⟩ | ⟨-, -, rfl⟩
  · exact absurd heq hlt.ne
  · simp [ha] at hna
  · exact hc

/-- With the reference memory `n` lines and the end of a transfer are `2n + 1` cycles (R136). -/
theorem IsTransfer.referenceClocks_eq (T : IsTransfer st base iters wsel) (n : Nat) (h : Inv s) (hs : s.auto.st = st)
    (hi : s.adaptor.phase = .idle) (hn : s.auto.offset.toNat + n = iters) :
    referenceClocks false (2 * n + 1) s = .next (finishTransfer base iters wsel s) := by
  induction n generalizing s with
  | zero =>
    obtain ⟨t, hc⟩ := exists_referenceClock false (s := s) (hs ▸ T.ne_fetchParams)
    rcases T.clock_cases h hs rfl hc with ⟨heq, rfl⟩ | ⟨hlt, -⟩ | ⟨hlt, -⟩
    · rw [referenceClocks_of_next hc, finishTransfer_of_end heq]
      rfl
    · omega
    · omega
  | succ n ih =>
    have hlt : s.auto.offset.toNat < iters := by omega
    have hc1 := T.referenceClock_idle h hs hi hlt
    have h1 := h.inv_clock hc1
    have hc2 := T.referenceClock_wait h1 hs rfl hlt
    have h2 := h1.inv_clock hc2
    rw [transferLine_of_adaptor] at hc2 h2
    have hoff : (transferLine base wsel s).auto.offset.toNat + n = iters := by
      have hiters := T.iters_lt
      rw [transferLine_auto]
      bv_omega
    rw [show 2 * (n + 1) + 1 = 2 * n + 1 + 1 + 1 by omega, referenceClocks_of_next hc1, referenceClocks_of_next hc2,
      finishTransfer_of_lt hlt T.iters_lt]
    exact ih h2 (by rw [transferLine_auto, hs]) (by rw [transferLine_adaptor]; rfl) hoff

end

/-! ## DEBUG -/

section
variable {s : State}

/-- With the reference memory a line of DEBUG is accepted at once (R60, R148). -/
theorem referenceClock_debugAccept (h : Inv s) (hs : s.auto.st = .debug)
    (hn : s.auto.offset.toNat ≠ params.debugLines) (hw : s.auto.wrWait = false) :
    referenceClock false s = .next (debugAccept params s) := by
  obtain ⟨t, hc⟩ := exists_referenceClock false (s := s) (by simp [hs])
  rcases clock_debug h hs rfl hc with ⟨heq, -⟩ | ⟨-, -, rfl⟩ | ⟨-, hw', -⟩
  · exact absurd heq hn
  · exact hc
  · simp [hw] at hw'

/-- With the reference memory an accepted line is acknowledged in the next cycle (R60, R148). -/
theorem referenceClock_debugAck (h : Inv s) (hs : s.auto.st = .debug)
    (hn : s.auto.offset.toNat ≠ params.debugLines) (hw : s.auto.wrWait = true) :
    referenceClock false s = .next (debugAck s) := by
  obtain ⟨t, hc⟩ := exists_referenceClock false (s := s) (by simp [hs])
  rcases clock_debug h hs rfl hc with ⟨heq, -⟩ | ⟨-, hw', -⟩ | ⟨-, -, rfl⟩
  · exact absurd heq hn
  · simp [hw] at hw'
  · rw [hc, if_pos (show (referenceInputs false s).wrAck = true from hw)]

/-- With the reference memory `n` lines and the end of DEBUG are `2n + 1` cycles (R150). -/
theorem referenceClocks_debug (n : Nat) (h : Inv s) (hs : s.auto.st = .debug) (hw : s.auto.wrWait = false)
    (hn : s.auto.offset.toNat + n = params.debugLines) :
    referenceClocks false (2 * n + 1) s = .next (finishDebug params s) := by
  induction n generalizing s with
  | zero =>
    obtain ⟨t, hc⟩ := exists_referenceClock false (s := s) (by simp [hs])
    rcases clock_debug h hs rfl hc with ⟨heq, rfl⟩ | ⟨hne, -⟩ | ⟨hne, -⟩
    · rw [referenceClocks_of_next hc, finishDebug_of_end heq]
      rfl
    · exact absurd hn hne
    · exact absurd hn hne
  | succ n ih =>
    have hne : s.auto.offset.toNat ≠ params.debugLines := by omega
    have hc1 := referenceClock_debugAccept h hs hne hw
    have h1 := h.inv_clock hc1
    have hc2 := referenceClock_debugAck h1 hs hne rfl
    have h2 := h1.inv_clock hc2
    have hoff : (debugAck (debugAccept params s)).auto.offset.toNat + n = params.debugLines := by
      rw [debugAck_offset, debugAccept_offset]
      rw [params_debugLines] at *
      bv_omega
    rw [show 2 * (n + 1) + 1 = 2 * n + 1 + 1 + 1 by omega, referenceClocks_of_next hc1, referenceClocks_of_next hc2,
      ← finishDebug_debugAccept hne hw, ← finishDebug_debugAck (s := debugAccept params s) hne rfl]
    exact ih h2 hs rfl hoff

end

/-- Settles O56: 16, 8 and 24 lines. -/
theorem referenceMemoryCycleCounts : Obligations.ReferenceMemoryCycleCounts := by
  unfold Obligations.ReferenceMemoryCycleCounts
  intro s h hi ho hw
  have hoff (n : Nat) : s.auto.offset.toNat + n = n := by simp [ho]
  exact ⟨fun hs => isTransfer_configureStates.referenceClocks_eq 16 h hs hi (hoff 16),
    fun hs => isTransfer_configureWeights.referenceClocks_eq 8 h hs hi (hoff 8),
    fun hs => referenceClocks_debug 24 h hs hw (hoff 24)⟩

end Sys2Proof.Machine
end

section
/-! PROOFS. The boot sequence (20_memory.md R58; 70_reset_and_hazards.md R171, R173). -/

namespace Sys2Proof.Machine

/-! ## The image in memory -/

theorem Memory.writeLines_cons (m : Memory) (w : LineWrite) (ws : List LineWrite) :
    m.writeLines (w :: ws) = (m.writeLine w.line w.data).writeLines ws := rfl

/-- `M` after the writes of an image of whole lines from line `l` on: the image's bytes from the first byte of `l` on,
and every other byte as before (R54, R57). -/
theorem read_imageWrites (l : LineAddr) (image : List Byte) (m : Memory) (a : Nat) (hd : 4 ∣ image.length)
    (hfit : 4 * l.toNat + image.length < 2 ^ 26) :
    (m.writeLines (imageWrites l image)).read a =
      if a < 4 * l.toNat then m.read a else image[a - 4 * l.toNat]?.getD (m.read a) := by
  fun_induction imageWrites l image generalizing m with
  | case1 l b0 b1 b2 b3 rest ih =>
    simp only [List.length_cons] at hd hfit
    have hl : (l + 1).toNat = l.toNat + 1 := by bv_omega
    rw [Memory.writeLines_cons, ih _ (by omega) (by omega), hl]
    by_cases hin : 4 * l.toNat ≤ a ∧ a < 4 * l.toNat + 4
    · obtain ⟨i, rfl⟩ : ∃ i, a = byteKey l i := ⟨a - 4 * l.toNat, by unfold byteKey; omega⟩
      have hi : i < 4 := by unfold byteKey at hin; omega
      rw [if_pos (by omega), if_neg (by omega), Memory.read_writeLine_same _ _ _ hi]
      have hk : byteKey l i - 4 * l.toNat = i := by unfold byteKey; omega
      rw [hk]
      interval_cases i <;> rfl
    · have hout : ∀ i < 4, a ≠ byteKey l i := by
        intro i hi
        unfold byteKey
        omega
      rw [Memory.read_writeLine_other _ _ _ hout]
      by_cases hlow : a < 4 * l.toNat
      · rw [if_pos (by omega), if_pos hlow]
      · rw [if_neg (by omega), if_neg hlow, show a - 4 * l.toNat = a - 4 * (l.toNat + 1) + 4 by omega]
        rfl
  | case2 bytes l hshort =>
    have hnil : bytes = [] := by
      match bytes, hd with
      | [], _ => rfl
      | [_], hd => simp at hd
      | [_, _], hd => simp at hd
      | [_, _, _], hd => simp at hd
      | b0 :: b1 :: b2 :: b3 :: rest, _ => exact absurd rfl (hshort b0 b1 b2 b3 rest)
    simp [hnil]

/-! ## The three cycles of the boot -/

/-- The state after reset with memory `m`, and the cycles `ins` still to come. -/
def loaded (m : Memory) (ins : List Inputs) : State := { State.reset with mem := m, inputs := ins }

theorem launch_eq_loaded (image : List Byte) : launch image = loaded [] (bootInputs image) := rfl

/-- The next scripted cycle is the step (R6). -/
theorem run_loaded (n : Nat) {m : Memory} {inp : Inputs} {ins : List Inputs} {t : State}
    (hc : clock inp (loaded m ins) = .next t) :
    Host.Core.run Sys2Proof.core (n + 1) (loaded m (inp :: ins)) = Host.Core.run Sys2Proof.core n t := by
  have hstep : Sys2Proof.core.step (loaded m (inp :: ins)) = .next t := hc
  simp only [Host.Core.run, hstep]

section
variable {m : Memory} (ins : List Inputs)

theorem inv_loaded (hm : m.wf = true) : Inv (loaded m ins) := Settled.inv_of_reset ⟨rfl, hm, rfl⟩ rfl rfl

theorem clock_loaded_rst : clock { Inputs.idle with rst := true } (loaded m ins) = .next (loaded m ins) := by
  obtain ⟨t, hc⟩ := exists_clock_of_admitted (inp := { Inputs.idle with rst := true }) (s := loaded m ins)
    ⟨rfl, rfl⟩ nofun
  rw [hc, clock_rst rfl hc]
  rfl

theorem clock_loaded_hostWrites (hm : m.wf = true) (ws : List LineWrite) :
    clock { Inputs.idle with hostWrites := ws } (loaded m ins) = .next (loaded (m.writeLines ws) ins) := by
  have hadm : Admitted { Inputs.idle with hostWrites := ws } (loaded m ins) :=
    ⟨by simp [hostBreaksDuty, loaded, State.reset, Automaton.reset, Adaptor.reset, Inputs.idle], rfl⟩
  obtain ⟨t, hc⟩ := exists_clock_of_admitted hadm nofun
  rw [hc, clock_reset (inv_loaded ins hm) rfl rfl hc]
  rfl

theorem clock_loaded_start (hm : m.wf = true) : clock { Inputs.idle with start := true } (loaded m ins) =
    .next { loaded m ins with auto := { Automaton.reset with st := .fetchOp } } := by
  obtain ⟨t, hc⟩ := exists_clock_of_admitted (inp := { Inputs.idle with start := true }) (s := loaded m ins)
    ⟨rfl, rfl⟩ nofun
  rw [hc, clock_reset (inv_loaded ins hm) rfl rfl hc]
  rfl

end

/-- The host's three cycles end in FETCH_OP at pc 0 with the image's lines written (R171, R173). -/
theorem run_launch (image : List Byte) : Host.Core.run Sys2Proof.core 3 (launch image) =
    .next { loaded (Memory.writeLines [] (imageWrites 0 image)) [] with
      auto := { Automaton.reset with st := .fetchOp } } := by
  have hm : (Memory.writeLines [] (imageWrites 0 image)).wf = true := Memory.wf_writeLines rfl _
  rw [launch_eq_loaded]
  exact (run_loaded 2 (clock_loaded_rst _)).trans <|
    (run_loaded 1 (clock_loaded_hostWrites _ rfl (imageWrites 0 image))).trans <|
    run_loaded 0 (clock_loaded_start _ hm)

/-- Settles O60: the three cycles, and the image's bytes as their line writes leave them. -/
theorem bootLoadsTheImageAndStarts : Obligations.BootLoadsTheImageAndStarts := by
  unfold Obligations.BootLoadsTheImageAndStarts
  intro image hlen
  have hread (a : Nat) : (Memory.writeLines [] (imageWrites 0 image)).read a = image[a]?.getD (Config.memInit a) :=
    read_imageWrites 0 image [] a (by omega) (by rw [hlen]; decide)
  refine ⟨_, run_launch image, rfl, rfl, rfl, fun k hk => ?_, fun k hk => ?_⟩
  · exact (hread k).trans (by rw [List.getElem?_eq_getElem hk]; rfl)
  · exact (hread k).trans (by rw [List.getElem?_eq_none hk]; rfl)

end Sys2Proof.Machine
end

section
/-! PROOFS. The decoder against the encoder (30_encoding.md R85 to R96), and the host's table word (spec/opcode_table.json).
-/

namespace Sys2Proof

/-! ## From the encoding to the instruction -/

/-- The bytes of format FA decode to the instruction of the opcode, whatever `pbuf` and `lcount` would be (R87). -/
theorem decode_encodeFA {op : Opcode} (h : op.arity = 3) (a : BitVec 24) (p c : Byte) (rest : List Byte) :
    decode (encodeFA op a ++ rest) = .ok (Machine.instrOf op a p c, rest) := by
  have key : decode (encodeFA op a ++ rest) =
      .ok (Machine.instrOf op (addrOfBytes (addrByte a 0) (addrByte a 1) (addrByte a 2)) p c, rest) := by
    cases op with
    | reset => cases h
    | loadFeatures => cases h
    | storeFeatures => cases h
    | _ => rfl
  rw [key, addrOfBytes_addrByte]

/-- The bytes of format FB decode to the instruction of the opcode (R88). -/
theorem decode_encodeFB {op : Opcode} (h : op.arity = 5) (p c : Byte) (a : BitVec 24) (rest : List Byte) :
    decode (encodeFB op p c a ++ rest) = .ok (Machine.instrOf op a p c, rest) := by
  have key : decode (encodeFB op p c a ++ rest) =
      .ok (Machine.instrOf op (addrOfBytes (addrByte a 0) (addrByte a 1) (addrByte a 2)) p c, rest) := by
    cases op with
    | loadFeatures => rfl
    | storeFeatures => rfl
    | _ => cases h
  rw [key, addrOfBytes_addrByte]

/-- The decoder reads an instruction back from its encoding, whatever bytes follow (R85 to R91). -/
theorem decode_encode (i : Instr) (rest : List Byte) : decode (encode i ++ rest) = .ok (i, rest) := by
  cases i with
  | reset => rfl
  | configureStates line => exact decode_encodeFA rfl line 0 0 rest
  | configureWeights line => exact decode_encodeFA rfl line 0 0 rest
  | loadFeatures pbuf lcount line => exact decode_encodeFB rfl pbuf lcount line rest
  | storeFeatures pbuf lcount line => exact decode_encodeFB rfl pbuf lcount line rest
  | run len => exact decode_encodeFA rfl len 0 0 rest
  | debug line => exact decode_encodeFA rfl line 0 0 rest

/-- Settles O4: one format at a time, the address field assembled from its own bytes. -/
theorem decodeOfEncodeIsTheInstruction : Obligations.DecodeOfEncodeIsTheInstruction := decode_encode

/-- Settles O8: each word is the encoding of its instruction, so it decodes to it. -/
theorem specEncodingsDecode : Obligations.SpecEncodingsDecode :=
  ⟨decode_encode .reset [], decode_encode (.configureStates 128) [], decode_encode (.configureWeights 144) [],
    decode_encode (.loadFeatures 2 5 256) [], decode_encode (.storeFeatures 1 3 512) [], decode_encode (.run 255) [],
    decode_encode (.debug 200) [], decode_encode (.configureStates 0x030201) []⟩

/-! ## From the bytes to the instruction -/

/-- Any three bytes are the bytes of an address field (R89, R94). -/
theorem addrByte_addrOfBytes (b0 b1 b2 : Byte) :
    addrByte (addrOfBytes b0 b1 b2) 0 = b0 ∧ addrByte (addrOfBytes b0 b1 b2) 1 = b1 ∧
      addrByte (addrOfBytes b0 b1 b2) 2 = b2 := by
  refine ⟨?_, ?_, ?_⟩ <;> (unfold addrByte addrOfBytes; ext i hi; grind)

/-- What format FA accepts is the three bytes of its address, and the rest (R87). -/
theorem decodeFA_eq_ok {mk : BitVec 24 → Instr} {bytes rest : List Byte} {i : Instr}
    (h : decodeFA mk bytes = .ok (i, rest)) :
    ∃ a, i = mk a ∧ bytes = addrByte a 0 :: addrByte a 1 :: addrByte a 2 :: rest := by
  unfold decodeFA at h
  split at h
  · next b0 b1 b2 _ =>
    cases h
    obtain ⟨h0, h1, h2⟩ := addrByte_addrOfBytes b0 b1 b2
    exact ⟨_, rfl, by rw [h0, h1, h2]⟩
  · cases h

/-- What format FB accepts is the three bytes of its address, `pbuf`, `lcount`, and the rest (R88). -/
theorem decodeFB_eq_ok {mk : Byte → Byte → BitVec 24 → Instr} {bytes rest : List Byte} {i : Instr}
    (h : decodeFB mk bytes = .ok (i, rest)) :
    ∃ p c a, i = mk p c a ∧ bytes = addrByte a 0 :: addrByte a 1 :: addrByte a 2 :: p :: c :: rest := by
  unfold decodeFB at h
  split at h
  · next b0 b1 b2 p c _ =>
    cases h
    obtain ⟨h0, h1, h2⟩ := addrByte_addrOfBytes b0 b1 b2
    exact ⟨p, c, _, rfl, by rw [h0, h1, h2]⟩
  · cases h

/-- What decodes to an instruction is its encoding, and the rest: the opcode byte selects the format (R92, R96). -/
theorem eq_encode_of_decode {bytes rest : List Byte} {i : Instr} (h : decode bytes = .ok (i, rest)) :
    bytes = encode i ++ rest := by
  cases bytes with
  | nil => cases h
  | cons b operands =>
    cases hop : Opcode.ofByte b with
    | none => simp [decode, hop] at h
    | some op =>
      obtain rfl := Opcode.code_of_ofByte hop
      cases op with
      | reset => cases h; rfl
      | loadFeatures => obtain ⟨p, c, a, rfl, rfl⟩ := decodeFB_eq_ok h; rfl
      | storeFeatures => obtain ⟨p, c, a, rfl, rfl⟩ := decodeFB_eq_ok h; rfl
      | configureStates => obtain ⟨a, rfl, rfl⟩ := decodeFA_eq_ok h; rfl
      | configureWeights => obtain ⟨a, rfl, rfl⟩ := decodeFA_eq_ok h; rfl
      | run => obtain ⟨a, rfl, rfl⟩ := decodeFA_eq_ok h; rfl
      | debug => obtain ⟨a, rfl, rfl⟩ := decodeFA_eq_ok h; rfl

/-- Settles O5: by the opcode byte and then the bytes of its format. -/
theorem decodedBytesAreTheEncoding : Obligations.DecodedBytesAreTheEncoding :=
  fun _ _ _ => eq_encode_of_decode

/-! ## Illegal opcode bytes -/

/-- The bytes that name no opcode (R93). -/
theorem Opcode.ofByte_eq_none_iff (b : Byte) : Opcode.ofByte b = none ↔ b.toNat = 0 ∨ 8 ≤ b.toNat := by
  unfold Opcode.ofByte
  split <;> simp_all
  omega

/-- A recognised opcode byte is never refused as unknown: its format at most finds too few operands (R92). -/
theorem decode_code_ne_unknownOpcode (op : Opcode) (b : Byte) (rest : List Byte) :
    decode (op.code :: rest) ≠ .error (.unknownOpcode b) := by
  have hFA (mk : BitVec 24 → Instr) : decodeFA mk rest ≠ .error (.unknownOpcode b) := by
    unfold decodeFA; split <;> simp
  have hFB (mk : Byte → Byte → BitVec 24 → Instr) : decodeFB mk rest ≠ .error (.unknownOpcode b) := by
    unfold decodeFB; split <;> simp
  cases op with
  | reset => exact nofun
  | loadFeatures => exact hFB _
  | storeFeatures => exact hFB _
  | configureStates => exact hFA _
  | configureWeights => exact hFA _
  | run => exact hFA _
  | debug => exact hFA _

/-- Settles O6: the decoder refuses by name exactly the bytes outside the opcode map. -/
theorem illegalOpcodesAreTheOtherBytes : Obligations.IllegalOpcodesAreTheOtherBytes := by
  unfold Obligations.IllegalOpcodesAreTheOtherBytes
  intro b rest
  rw [← Opcode.ofByte_eq_none_iff]
  cases hop : Opcode.ofByte b with
  | none => simp [decode, hop]
  | some op =>
    obtain rfl := Opcode.code_of_ofByte hop
    simp [decode_code_ne_unknownOpcode]

/-! ## The host's table word -/

theorem tableWord_lt (bytes : List Byte) : tableWord bytes < 2 ^ (8 * bytes.length) := by
  induction bytes with
  | nil => simp [tableWord]
  | cons b rest ih =>
    have hb := b.isLt
    rw [tableWord, List.length_cons, Nat.mul_succ, Nat.pow_add]
    omega

@[simp] theorem tableBytes_length (n w : Nat) : (tableBytes n w).length = n := by
  induction n generalizing w with
  | zero => rfl
  | succ n ih => rw [tableBytes, List.length_cons, ih]

/-- The bytes of a table word are the bytes it was made of, and zeros. -/
theorem tableBytes_tableWord (n : Nat) (bytes : List Byte) (h : bytes.length ≤ n) :
    tableBytes n (tableWord bytes) = bytes ++ tableBytes (n - bytes.length) 0 := by
  induction bytes generalizing n with
  | nil => rfl
  | cons b rest ih =>
    obtain ⟨n, rfl⟩ : ∃ k, n = k + 1 := ⟨n - 1, by rw [List.length_cons] at h; omega⟩
    have hb := b.isLt
    have hbyte : BitVec.ofNat 8 (tableWord (b :: rest)) = b := by
      apply BitVec.eq_of_toNat_eq
      rw [BitVec.toNat_ofNat, tableWord]
      omega
    have hrest : tableWord (b :: rest) / 256 = tableWord rest := by
      rw [tableWord]
      omega
    rw [List.length_cons] at h
    rw [tableBytes, hbyte, hrest, ih n (by omega), List.length_cons, Nat.add_sub_add_right]
    rfl

theorem Opcode.arity_le (op : Opcode) : op.arity ≤ 5 := by
  cases op <;> decide

/-- An encoding has at most the six bytes of format FB (R88, R95). -/
theorem encode_length_le (i : Instr) : (encode i).length ≤ 6 := by
  obtain ⟨operands, henc, hlen⟩ := encodedShape i
  have harity := i.opcode.arity_le
  rw [henc, List.length_cons, hlen]
  omega

/-- The six bytes of an instruction's table word are its encoding, and zeros. -/
theorem tableBytes_encode (i : Instr) :
    tableBytes 6 (tableWord (encode i) % 2 ^ (8 * (encode i).length)) =
      encode i ++ tableBytes (6 - (encode i).length) 0 := by
  rw [Nat.mod_eq_of_lt (tableWord_lt _), tableBytes_tableWord 6 _ (encode_length_le i)]

/-- Settles O9: the table word's bytes are the encoding, which decodes to the instruction. -/
theorem tableWordDecodesToTheInstruction : Obligations.TableWordDecodesToTheInstruction := by
  unfold Obligations.TableWordDecodesToTheInstruction
  intro i
  simp only [decodeTableWord, tableBytes_encode, decode_encode]

end Sys2Proof
end

section
/-! PROOFS. A step and the bytes it decodes (30_encoding.md R85; 40_automaton.md R113 to R116, R121): the instruction
fetched from `pc` on, and the one the host's `withFetchWord` places there. -/

namespace Sys2Proof.Machine

/-! ## The bytes fetched -/

/-- Fetching fewer bytes presents the first of those that fetching more presents (R118). -/
theorem fetchBytes_take (s : State) {n k : Nat} (h : k ≤ n) : (fetchBytes k s).1 = (fetchBytes n s).1.take k := by
  induction k generalizing n s with
  | zero => rfl
  | succ k ih =>
    obtain ⟨n, rfl⟩ : ∃ j, n = j + 1 := ⟨n - 1, by omega⟩
    rw [fetchBytes, fetchBytes, List.take_succ_cons, ih (fetchByte s).2 (Nat.le_of_succ_le_succ h)]

/-- Where the bytes fetched are an instruction's encoding, they are executed as that instruction (R85, R121). -/
theorem runInstruction_of_fetched {s : State} {i : Instr}
    (h : (fetchBytes (encode i).length s).1 = encode i) :
    runInstruction s = exec i (fetchBytes (encode i).length s).2 := by
  obtain ⟨operands, henc, hlen⟩ := encodedShape i
  have hn : (encode i).length = i.opcode.arity + 1 := by rw [henc, List.length_cons, hlen]
  have hexec : executeBytes (encode i) (fetchBytes (i.opcode.arity + 1) s).2 =
      exec i (fetchBytes (i.opcode.arity + 1) s).2 := by
    have hdec := decode_encode i []
    rw [List.append_nil] at hdec
    rw [executeBytes, hdec]
  rw [hn] at h ⊢
  have hfirst : (fetchByte s).1 = i.opcode.code := (List.cons.inj (h.trans henc)).1
  rw [← hexec, ← h, runInstruction, hfirst, arity_code, ← hfirst]
  rfl

/-- Without a scripted cycle, under fairness, the step from FETCH_OP runs the next instruction (R6, R121). -/
theorem step_of_fetchOp {s : State} (hi : s.inputs = []) (hf : s.thereafter = .fair) (hs : s.auto.st = .fetchOp) :
    step s = runInstruction s := by
  rw [← runToBoundary_fetchOp hs]
  simp only [step, hi, hf]

/-- What a freely drawn cycle drives keeps the duties of the host and of the dataflow core (R143, R174). -/
theorem admitted_admitted (inp : Inputs) (s : State) : Admitted (inp.admitted s) s := by
  constructor
  · by_cases h : hostBreaksDuty inp s = true
    · have hw : (inp.admitted s).hostWrites = [] := if_pos h
      rw [hostBreaksDuty, hw]
      rfl
    · have hw : (inp.admitted s).hostWrites = inp.hostWrites := if_neg h
      rw [hostBreaksDuty, hw]
      exact eq_false_of_ne_true h
  · by_cases h : dataflowBreaksDuty inp s = true
    · have hw : (inp.admitted s).dfWrites = [] := if_pos h
      rw [dataflowBreaksDuty, hw]
      rfl
    · have hw : (inp.admitted s).dfWrites = inp.dfWrites := if_neg h
      rw [dataflowBreaksDuty, hw]
      exact eq_false_of_ne_true h

/-- Settles O10: the six bytes that decode begin with the encoding, which is what the step fetches. -/
theorem stepRunsTheDecodedInstruction : Obligations.StepRunsTheDecodedInstruction := by
  unfold Obligations.StepRunsTheDecodedInstruction
  refine ⟨fun s i rest hi hf hs hdec => ⟨?_, fetchBytes_frame _ s⟩, fun s inp later hi => ?_,
    fun s inp hi hf => ?_, fun s n hi hf => ⟨?_, admitted_admitted _ s⟩⟩
  · have hfetched : (fetchBytes (encode i).length s).1 = encode i := by
      rw [fetchBytes_take s (encode_length_le i), eq_encode_of_decode hdec, List.take_left]
    rw [step_of_fetchOp hi hf hs, runInstruction_of_fetched hfetched]
  · simp only [step, hi]
  · simp only [step, hi, hf]
  · simp only [step, hi, hf]

/-! ## The bytes placed -/

/-- A byte address is the key of its byte (R54). -/
theorem byteKey_lineOf (b : ByteAddr) : byteKey (lineOf b) (selOf b).toNat = b.toNat := by
  simp only [byteKey, lineOf, selOf, BitVec.extractLsb'_toNat, Nat.shiftRight_eq_div_pow]
  have := b.isLt
  omega

theorem memByte_eq_read (m : Memory) (b : ByteAddr) : memByte m b = m.read b.toNat := by
  rw [memByte, lineByte, Memory.readLine_get, byteKey_lineOf]

/-- Bytes stored elsewhere leave a byte as it was. -/
theorem read_storeBytes_other (bytes : List Byte) (a : ByteAddr) (m : Memory) {c : Nat}
    (h : ∀ k < bytes.length, c ≠ (a + BitVec.ofNat 26 k).toNat) : (storeBytes bytes a m).read c = m.read c := by
  induction bytes generalizing a m with
  | nil => rfl
  | cons b rest ih =>
    have hhead : c ≠ a.toNat := by simpa using h 0 (by simp)
    rw [storeBytes, ih, Memory.read_write_other _ hhead]
    intro k hk
    have hk1 := h (k + 1) (by simpa using hk)
    bv_omega

/-- Bytes stored from an address on, no more than there are addresses, are the bytes of `M` there (R85). -/
theorem memBytes_storeBytes (bytes : List Byte) (a : ByteAddr) (m : Memory) (h : bytes.length ≤ 2 ^ 26) :
    memBytes (storeBytes bytes a m) a bytes.length = bytes := by
  induction bytes generalizing a m with
  | nil => rfl
  | cons b rest ih =>
    rw [List.length_cons] at h ⊢
    have hhead : memByte (storeBytes (b :: rest) a m) a = b := by
      rw [memByte_eq_read, storeBytes, read_storeBytes_other _ _ _ fun k hk => by bv_omega, Memory.read_write_same]
    rw [memBytes_succ, hhead, storeBytes, ih _ _ (by omega)]

/-- What is fetched from where bytes were placed is those bytes: nothing is cached, so `M` presents them (R85, R118). -/
theorem fetchBytes_placeInstruction (bytes : List Byte) (s : State) (h : bytes.length ≤ 2 ^ 26) :
    (fetchBytes bytes.length (placeInstruction bytes s)).1 = bytes := by
  rw [(fetchBytes_of_coherent _ (coherent_of_invalid rfl)).1]
  exact memBytes_storeBytes bytes s.auto.pc s.mem h

/-- Settles O14: the placed word's bytes begin with the encoding, which the step fetches and executes. -/
theorem placedWordIsTheNextInstruction : Obligations.PlacedWordIsTheNextInstruction := by
  unfold Obligations.PlacedWordIsTheNextInstruction
  intro s i
  set p := s.withFetchWord (8 * (encode i).length) (tableWord (encode i)) with hp
  have hplace : p = placeInstruction (encode i ++ tableBytes (6 - (encode i).length) 0) s := by
    rw [hp, State.withFetchWord, tableBytes_encode]
  have hfetched : (fetchBytes (encode i).length p).1 = encode i := by
    have hall := fetchBytes_placeInstruction (encode i ++ tableBytes (6 - (encode i).length) 0) s (by
      rw [← tableBytes_encode, tableBytes_length]; decide)
    rw [← hplace] at hall
    rw [fetchBytes_take p (List.length_append ▸ Nat.le_add_right _ _), hall, List.take_left]
  refine ⟨(fetchBytes (encode i).length p).2, ?_, ?_⟩
  · rw [step_of_fetchOp rfl rfl rfl, runInstruction_of_fetched hfetched]
  · rw [fetchBytes_frame]
    exact ⟨rfl, rfl, ⟨rfl, rfl⟩, rfl, rfl, rfl, rfl, rfl, rfl⟩

end Sys2Proof.Machine
end

section
/-! PROOFS. What a whole transfer leaves in the node registers (42_configuration.md R130 to R137), and the round trips of
the payload layouts through it (30_encoding.md R98 to R100, R102; 42_configuration.md R141, R142). -/

namespace Sys2Proof.Machine

/-! ## One line of a transfer -/

/-- The node registers that a transfer with the given weight-select writes (R140). -/
def nodeRegs (wsel : Bool) (s : State) : Vector Byte Config.numNodes := if wsel then s.nodeWeight else s.nodeState

/-- The fan-out of a line of `M`, by the numbers of the nodes its lanes address (R130, R138). -/
theorem muxNode_readLine {base offset : Nat} (hb : base + 4 * offset + 4 ≤ 64) (wsel : Bool) (m : Memory)
    (l : LineAddr) (n : Nat) :
    muxNode (driveLanes base offset wsel (m.readLine l)) n =
      if base + 4 * offset ≤ n ∧ n < base + 4 * offset + 4 then
        ⟨true, m.read (byteKey l (n - (base + 4 * offset))), wsel⟩
      else NodeConfig.off := by
  have hlast : nodeAddr base offset 3 < 64 := by
    simp only [nodeAddr, Config.lineBytes]
    omega
  rw [muxNode_driveLanes base offset wsel _ n hlast]
  simp only [Memory.readLine_get]
  rfl

section
variable (base : Nat) (wsel : Bool) (s : State)

/-- The registers take what the multiplexer gives their node (R140). -/
theorem nodeRegs_transferLine_eq_sink {n : Nat} (hn : n < Config.numNodes) :
    (nodeRegs wsel (transferLine base wsel s))[n] =
      let c := muxNode (driveLanes base s.auto.offset.toNat wsel
        (s.mem.readLine (lineAt s.auto.addr s.auto.offset))) n
      if c.en && c.wsel == wsel then c.data else (nodeRegs wsel s)[n] := by
  cases wsel with
  | false => simp [nodeRegs, transferLine_nodeState, sinkState]
  | true => simp [nodeRegs, transferLine_nodeWeight, sinkWeight]

/-- The four nodes that the lanes address hold the line's bytes, and every other node what it held (R131, R140). -/
theorem nodeRegs_transferLine (hb : base + 4 * s.auto.offset.toNat + 4 ≤ 64) {n : Nat} (hn : n < Config.numNodes) :
    (nodeRegs wsel (transferLine base wsel s))[n] =
      if base + 4 * s.auto.offset.toNat ≤ n ∧ n < base + 4 * s.auto.offset.toNat + 4 then
        payloadByte s.mem s.auto.addr (n - base)
      else (nodeRegs wsel s)[n] := by
  rw [nodeRegs_transferLine_eq_sink base wsel s hn, muxNode_readLine hb]
  split
  · next hin =>
    have hline : (n - base) / 4 = s.auto.offset.toNat := by omega
    have hsel : (n - base) % 4 = n - (base + 4 * s.auto.offset.toNat) := by omega
    simp [payloadByte, hline, hsel, lineAt]
  · rfl

/-- A transfer's line writes no register of the other kind (R140). -/
theorem nodeRegs_transferLine_other : nodeRegs (!wsel) (transferLine base wsel s) = nodeRegs (!wsel) s := by
  cases wsel with
  | false => exact (sinkLanes_nodeWeight_of_wsel (driveLanes_wsel _ _ _ _) _).trans (requestLine_nodeWeight _ _ _)
  | true => exact (sinkLanes_nodeState_of_wsel (driveLanes_wsel _ _ _ _) _).trans (requestLine_nodeState _ _ _)

end

/-! ## A whole transfer -/

/-- After `k` lines the nodes from the one that `offset` names on hold the payload's bytes, four to a line (R132, R133). -/
theorem nodeRegs_transferLines (base : Nat) (wsel : Bool) (k : Nat) (s : State)
    (hb : base + 4 * (s.auto.offset.toNat + k) ≤ 64) (hk : s.auto.offset.toNat + k < 32)
    {n : Nat} (hn : n < Config.numNodes) :
    (nodeRegs wsel (transferLines base wsel k s))[n] =
      if base + 4 * s.auto.offset.toNat ≤ n ∧ n < base + 4 * (s.auto.offset.toNat + k) then
        payloadByte s.mem s.auto.addr (n - base)
      else (nodeRegs wsel s)[n] := by
  induction k generalizing s with
  | zero => rw [if_neg (by omega), transferLines]
  | succ k ih =>
    have hauto := transferLine_auto base wsel s
    have hoff : (transferLine base wsel s).auto.offset.toNat = s.auto.offset.toNat + 1 := by
      rw [hauto]
      bv_omega
    rw [transferLines, ih _ (by omega) (by omega), hoff, hauto, transferLine_mem,
      nodeRegs_transferLine base wsel s (by omega) hn]
    split_ifs <;> first | rfl | omega

theorem nodeRegs_transferLines_other (base : Nat) (wsel : Bool) (k : Nat) (s : State) :
    nodeRegs (!wsel) (transferLines base wsel k s) = nodeRegs (!wsel) s := by
  induction k generalizing s with
  | zero => rfl
  | succ k ih => exact (ih _).trans (nodeRegs_transferLine_other base wsel s)

section
variable {base iters : Nat} {s : State} (ho : s.auto.offset.toNat = 0) (wsel : Bool)
include ho

theorem finishTransfer_of_start :
    finishTransfer base iters wsel s = endExecution (transferLines base wsel iters s) := by
  simp [finishTransfer, ho]

/-- A transfer run from its first line: node `base + j` holds byte `j` of the payload, as far as its lines reach, and
every other node what it held (R132, R133). -/
theorem nodeRegs_finishTransfer (hb : base + 4 * iters ≤ 64) (hi : iters < 32) {n : Nat} (hn : n < Config.numNodes) :
    (nodeRegs wsel (finishTransfer base iters wsel s))[n] =
      if base ≤ n ∧ n < base + 4 * iters then payloadByte s.mem s.auto.addr (n - base) else (nodeRegs wsel s)[n] := by
  have hlines := nodeRegs_transferLines base wsel iters s (by omega) (by omega) hn
  simp only [ho, Nat.mul_zero, Nat.add_zero, Nat.zero_add] at hlines
  rw [finishTransfer_of_start ho]
  exact hlines

theorem nodeRegs_finishTransfer_other :
    nodeRegs (!wsel) (finishTransfer base iters wsel s) = nodeRegs (!wsel) s := by
  rw [finishTransfer_of_start ho]
  exact nodeRegs_transferLines_other base wsel iters s

end

/-! ## The two instructions -/

/-- What `ConfigureStates` leaves in the node registers: every node its byte of the payload, and the weights as they were
(R132). -/
theorem exec_configureStates_nodes (line : LineAddr) (s : State) :
    ∃ t, exec (.configureStates line) s = .next t ∧
      (∀ (n : Nat) (h : n < Config.numNodes), t.nodeState[n] = payloadByte s.mem line n) ∧
      t.nodeWeight = s.nodeWeight := by
  refine ⟨_, rfl, fun n hn => ?_, nodeRegs_finishTransfer_other rfl false⟩
  have hregs := nodeRegs_finishTransfer (base := stateNodeBase) (iters := itersS)
    (s := stage .configureStates .configureStates line s) rfl false (by decide) (by decide) hn
  exact hregs.trans (if_pos ⟨Nat.zero_le n, hn.trans (by decide)⟩)

/-- What the weight transfer leaves in the node registers, under parameters whose node addresses and counts fit their
widths (R130, R133, R18). -/
theorem finishConfigureWeights_nodes {P : Params} (hb : P.weightNodeBase + 4 * P.itersW ≤ 64) (hi : P.itersW < 32)
    (line : LineAddr) (s : State) {n : Nat} (hn : n < Config.numNodes) :
    (finishConfigureWeights P (stage .configureWeights .configureWeights line s)).nodeWeight[n] =
      if P.weightNodeBase ≤ n ∧ n < P.weightNodeBase + 4 * P.itersW then
        payloadByte s.mem line (n - P.weightNodeBase)
      else s.nodeWeight[n] :=
  nodeRegs_finishTransfer (s := stage .configureWeights .configureWeights line s) rfl true hb hi hn

/-- The same for `ConfigureWeights`, which has the reference parameters: node `31 + j` holds byte `j` of the payload, and
the adders' weights and the state codes are as they were (R133). -/
theorem exec_configureWeights_nodes (line : LineAddr) (s : State) :
    ∃ t, exec (.configureWeights line) s = .next t ∧
      (∀ (j : Nat) (h : 31 + j < Config.numNodes), t.nodeWeight[31 + j] = payloadByte s.mem line j) ∧
      (∀ (n : Nat) (h : n < Config.numNodes), n < 31 → t.nodeWeight[n] = s.nodeWeight[n]) ∧
      t.nodeState = s.nodeState := by
  have hregs {n : Nat} (hn : n < Config.numNodes) :=
    finishConfigureWeights_nodes (P := params) (by decide) (by decide) line s hn
  refine ⟨_, rfl, fun j hj => ?_, fun n hn hlt => ?_, nodeRegs_finishTransfer_other rfl true⟩
  · rw [hregs hj, if_pos ⟨Nat.le_add_right _ _, hj⟩, params_weightNodeBase, Nat.add_sub_cancel_left]
  · rw [hregs hn, if_neg (by simp only [params_weightNodeBase]; omega)]

/-! ## The weight byte mapping (R102) -/

theorem toNat_enc8 (w : Int) : ((enc8 w).toNat : Int) = w % 256 := by
  rw [enc8, BitVec.toNat_ofNat]
  omega

/-- Every weight that has a byte encoding is read back from it. -/
theorem dec8_enc8 {w : Int} (h : weightInRange w = true) : dec8 (enc8 w) = w := by
  have henc := toNat_enc8 w
  simp only [weightInRange, Bool.and_eq_true, decide_eq_true_eq] at h
  unfold dec8
  split <;> omega

theorem enc8_dec8 (b : Byte) : enc8 (dec8 b) = b := by
  have henc := toNat_enc8 (dec8 b)
  have hb := b.isLt
  apply BitVec.eq_of_toNat_eq
  rcases Nat.lt_or_ge b.toNat 128 with hlt | hge
  · have hdec : dec8 b = b.toNat := if_pos (by omega)
    omega
  · have hdec : dec8 b = b.toNat - 256 := if_neg (by omega)
    omega

/-- Settles O26: by the number of the byte, `w` modulo 256. -/
theorem weightCodecIsABijection : Obligations.WeightCodecIsABijection := by
  unfold Obligations.WeightCodecIsABijection
  refine ⟨fun w => dec8_enc8, enc8_dec8, toNat_enc8, fun w h0 h127 => ?_, fun w h128 h1 => ?_, fun b hb => if_pos hb,
    fun b hb => if_neg (by omega)⟩
  · rw [toNat_enc8]
    omega
  · rw [toNat_enc8]
    omega

/-! ## The payload layouts -/

/-- Settles O24: byte `n` of the state payload is code `n`. -/
theorem stateCodesRoundTrip : Obligations.StateCodesRoundTrip := by
  unfold Obligations.StateCodesRoundTrip
  intro line s codes hl hpay
  obtain ⟨t, ht, hcodes, hweights⟩ := exec_configureStates_nodes line s
  refine ⟨t, ht, fun n hn => ?_, hweights⟩
  rw [hcodes n hn, hpay n (by simp [statePayload]; omega)]
  exact List.getElem_append_left _

/-- Settles O25: byte `j` of the weight payload encodes weight `j`, which reads back. -/
theorem weightsRoundTrip : Obligations.WeightsRoundTrip := by
  unfold Obligations.WeightsRoundTrip
  intro line s weights hl hrange hpay
  obtain ⟨t, ht, hweights, hadders, hcodes⟩ := exec_configureWeights_nodes line s
  refine ⟨t, ht, fun j hj => ?_, hadders, hcodes⟩
  rw [hweights j, hpay j (by simp [weightPayload]; omega)]
  simp only [weightPayload, List.getElem_map]
  exact dec8_enc8 (hrange _ (List.getElem_mem _))

/-- The lines that hold the source assembler's layout, byte by byte: three zeros, and then the weights' bytes (R100). -/
theorem payloadByte_of_assemblerLayout {m : Memory} {line : LineAddr} {weights : List Int}
    (hpay : ∀ (n : Nat) (h : n < (assemblerWeightPayload weights).length),
      payloadByte m line n = (assemblerWeightPayload weights)[n]) :
    (∀ n < 3, payloadByte m line n = 0) ∧
    ∀ (j : Nat) (h : j < weights.length), payloadByte m line (j + 3) = enc8 weights[j] := by
  refine ⟨fun n hn => ?_, fun j hj => ?_⟩
  · rw [hpay n (by simp [assemblerWeightPayload]; omega)]
    interval_cases n <;> rfl
  · rw [hpay (j + 3) (by simp [assemblerWeightPayload]; omega)]
    simp [assemblerWeightPayload, hj]

/-- Settles O27: node `31 + j` holds byte `j` of the layout, so weight `m`, its byte `m + 3`, is in node `34 + m`. -/
theorem assemblerLayoutShiftsTheWeights : Obligations.AssemblerLayoutShiftsTheWeights := by
  unfold Obligations.AssemblerLayoutShiftsTheWeights
  intro line s weights hl hpay
  obtain ⟨hzero, hweight⟩ := payloadByte_of_assemblerLayout hpay
  obtain ⟨t, ht, hnodes, -, -⟩ := exec_configureWeights_nodes line s
  have hpad {j : Nat} (hj : j < 3) : t.nodeWeight[31 + j]'(by show 31 + j < 63; omega) = 0 :=
    (hnodes j _).trans (hzero j hj)
  refine ⟨t, ht, hpad (j := 0) (by decide), hpad (j := 1) (by decide), hpad (j := 2) (by decide), fun m hm => ?_⟩
  have hnode := hnodes (m + 3) (by show 31 + (m + 3) < 63; omega)
  simp only [show 31 + (m + 3) = 34 + m by omega] at hnode
  rw [hnode, hweight]

/-- Settles O28: node `28 + j` holds byte `j` of the layout, so weight `m`, its byte `m + 3`, is in node `31 + m`. -/
theorem alternativeParametersRoundTripTheAssemblerLayout :
    Obligations.AlternativeParametersRoundTripTheAssemblerLayout := by
  unfold Obligations.AlternativeParametersRoundTripTheAssemblerLayout
  intro line s weights hl hpay
  obtain ⟨hzero, hweight⟩ := payloadByte_of_assemblerLayout hpay
  have hnodes {n : Nat} (hn : n < 63) (hbase : 28 ≤ n) :=
    (finishConfigureWeights_nodes (P := assemblerParams) (by decide) (by decide) line s hn).trans
      (if_pos ⟨hbase, hn.trans (by decide)⟩)
  have hpad {j : Nat} (hj : j < 3) := (hnodes (n := 28 + j) (by omega) (by omega)).trans
    ((congrArg _ (Nat.add_sub_cancel_left 28 j)).trans (hzero j hj))
  refine ⟨fun j hj => (hnodes (by omega) (by omega)).trans ?_, hpad (j := 0) (by decide), hpad (j := 1) (by decide),
    hpad (j := 2) (by decide)⟩
  have hbyte : 31 + j - assemblerParams.weightNodeBase = j + 3 := by
    show 31 + j - 28 = j + 3
    omega
  rw [hbyte, hweight]

end Sys2Proof.Machine
end

section
/-! PROOFS. What the image builder refuses (30_encoding.md R103, R104; 60_exceptions.md R154, R155), and the image of one
`ConfigureStates` and one `ConfigureWeights` (R97 to R101, R106; 95_test_vectors.md W4). -/

namespace Sys2Proof.Machine

/-! ## Refusals -/

/-- A target outside the builder's preconditions is refused before any operation (R103, R154). -/
theorem assemble_of_not_supported {T : Target} (h : T.supported = false) (ops : List Operation) :
    assemble T ops = none := by
  simp [assemble, h]

/-- One operation that is not well formed is enough for a refusal (R103, R104, R155). -/
theorem assemble_of_not_wellFormed {T : Target} {ops : List Operation} {op : Operation} (hmem : op ∈ ops)
    (h : op.wellFormed T.parameters.numMults = false) : assemble T ops = none := by
  have hall : ops.all (Operation.wellFormed T.parameters.numMults) = false :=
    List.all_eq_false.mpr ⟨op, hmem, by simp [h]⟩
  simp [assemble, hall]

/-- A supported target has the widths of the reference build, and parameters that fit them (R103, R130, R18). -/
theorem Target.supported_iff (T : Target) : T.supported = true ↔
    T.addrBytes = 3 ∧ T.numNodes = 63 ∧ T.parameters.numAdders ≤ 63 ∧
      T.parameters.weightNodeBase + 4 * T.parameters.itersW ≤ 64 ∧ 16 + T.parameters.itersW < 32 := by
  simp only [Target.supported, Params.wf, Bool.and_eq_true, decide_eq_true_eq, and_assoc]
  rfl

/-- Settles O58: the operation, or the target, that the builder's check names. -/
theorem buildErrorsAreRefused : Obligations.BuildErrorsAreRefused := by
  unfold Obligations.BuildErrorsAreRefused
  refine ⟨fun T ops weights w hop hw hout => assemble_of_not_wellFormed hop ?_,
    fun T ops codes hop hlen => assemble_of_not_wellFormed hop ?_,
    fun T ops weights hop hlen => assemble_of_not_wellFormed hop ?_,
    fun T ops name hop => assemble_of_not_wellFormed hop rfl,
    fun T ops hT => assemble_of_not_supported (eq_false_of_ne_true fun hok => ?_) ops⟩
  · have hrange : weightInRange w = false := by
      simp only [weightInRange, Bool.and_eq_false_iff, decide_eq_false_iff_not]
      omega
    have hall : weights.all weightInRange = false := List.all_eq_false.mpr ⟨w, hw, by simp [hrange]⟩
    simp only [Operation.wellFormed, hall, Bool.and_false]
  · exact beq_false_of_ne hlen
  · have hne : (weights.length == T.parameters.numMults) = false := beq_false_of_ne hlen
    simp only [Operation.wellFormed, hne, Bool.false_and]
  · obtain ⟨hbytes, hnodes, hadders, hbase, hlines⟩ := T.supported_iff.mp hok
    omega

/-! ## The configuration image -/

theorem padTo_getElem?_zero {n k : Nat} {bytes : List Byte} (hk : bytes.length ≤ k) (hn : k < n) :
    (padTo n bytes)[k]? = some 0 := by
  rw [padTo, List.getElem?_append_right hk, List.getElem?_replicate, if_pos (by omega)]

/-- A payload of whole lines is not padded (R99, R101). -/
theorem padToLine_of_dvd {bytes : List Byte} (h : 4 ∣ bytes.length) : padToLine bytes = bytes := by
  have hlines : Config.lineBytes * linesFor bytes.length - bytes.length = 0 := by
    simp only [linesFor, Config.lineBytes]
    omega
  rw [padToLine, padTo, hlines, List.replicate_zero, List.append_nil]

/-- An image is made of a program whose target, operations and regions pass the builder's check (R101, R103, R177). -/
theorem assemble_of_fits {T : Target} {ops : List Operation} (hT : T.supported = true)
    (hops : ∀ op ∈ ops, op.wellFormed T.parameters.numMults = true) (hi : (build ops).instrs.length ≤ 512)
    (hc : (build ops).config.length ≤ 512) :
    assemble T ops = some (padTo 512 (build ops).instrs ++ padTo 512 (build ops).config) := by
  refine if_pos ?_
  simp only [Bool.and_eq_true, decide_eq_true_eq]
  exact ⟨⟨⟨hT, List.all_eq_true.mpr hops⟩, hi⟩, hc⟩

/-- The configuration region begins at byte 512 of the image (R12, R101). -/
theorem regions_getElem?_add {instrs : List Byte} (h : instrs.length ≤ 512) (config : List Byte) (k : Nat) :
    (padTo 512 instrs ++ config)[512 + k]? = config[k]? := by
  have hlen := padTo_length h
  rw [List.getElem?_append_right (by omega), hlen, Nat.add_sub_cancel_left]

/-- The instruction bytes of one `ConfigureStates` at line 128, one `ConfigureWeights` at line 144, and the terminator
(95 W4). -/
def configurationInstrs : List Byte := [0x02, 0x80, 0x00, 0x00, 0x03, 0x90, 0x00, 0x00, 0x01]

section
variable {codes : List Byte} {weights : List Int} (hc : codes.length = 63) (hw : weights.length = 32)
include hc

theorem statePayload_length : (statePayload codes).length = 64 := by
  rw [statePayload, List.length_append, hc]
  rfl

include hw

/-- The build of the two operations: the state payload fills 16 lines from line 128 on, and the weight payload follows it
at line 144 (R101, R106). -/
theorem build_configuration : build [.configureStates codes, .configureWeights weights] =
    ⟨configurationInstrs, statePayload codes ++ weightPayload weights⟩ := by
  have hstates : padToLine (statePayload codes) = statePayload codes :=
    padToLine_of_dvd (by rw [statePayload_length hc]; decide)
  have hweights : padToLine (weightPayload weights) = weightPayload weights :=
    padToLine_of_dvd (by rw [weightPayload, List.length_map, hw]; decide)
  simp only [build, List.foldl, Build.add, Build.instr, Build.payload, Build.line, hstates, hweights, List.nil_append,
    statePayload_length hc]
  rfl

theorem configuration_length : (statePayload codes ++ weightPayload weights).length = 96 := by
  rw [List.length_append, statePayload_length hc, weightPayload, List.length_map, hw]

theorem assemble_configuration (hrange : ∀ w ∈ weights, weightInRange w = true) :
    assemble .reference [.configureStates codes, .configureWeights weights] =
      some (padTo 512 configurationInstrs ++ padTo 512 (statePayload codes ++ weightPayload weights)) := by
  have hbuild := build_configuration hc hw
  have hops : ∀ op ∈ [Operation.configureStates codes, .configureWeights weights],
      op.wellFormed Target.reference.parameters.numMults = true := by
    simpa [Operation.wellFormed, Target.reference, hc, hw] using hrange
  have himage := assemble_of_fits (T := .reference) rfl hops (by rw [hbuild, configurationInstrs]; simp)
    (by rw [hbuild, configuration_length hc hw]; decide)
  rwa [hbuild] at himage

end

/-- Settles O59: the two regions of the build, byte by byte. -/
theorem configurationImageLayout : Obligations.ConfigurationImageLayout := by
  unfold Obligations.ConfigurationImageLayout
  intro codes weights hc hw hrange
  have hconfig := configuration_length hc hw
  have hfit : configurationInstrs.length ≤ 512 := by decide
  refine ⟨_, assemble_configuration hc hw hrange, rfl, fun k hk hk' => ?_, fun n hn => ?_, ?_, fun j hj => ?_,
    fun k hk hk' => ?_⟩
  · rw [List.getElem?_append_left (by rwa [padTo_length hfit]), padTo_getElem?_zero hk hk']
  · rw [regions_getElem?_add hfit, padTo_getElem? (by omega)]
    simp [statePayload, hc, hn]
  · rw [regions_getElem?_add hfit _ 63, padTo_getElem? (by omega)]
    simp [statePayload, hc]
  · rw [show 576 + j = 512 + (64 + j) by omega, regions_getElem?_add hfit, padTo_getElem? (by omega),
      List.getElem_append_right (by rw [statePayload_length hc]; omega)]
    simp only [statePayload_length hc, Nat.add_sub_cancel_left, weightPayload, List.getElem_map]
  · obtain ⟨k, rfl⟩ : ∃ j, k = 512 + j := ⟨k - 512, by omega⟩
    rw [regions_getElem?_add hfit, padTo_getElem?_zero (by omega) (by omega)]

end Sys2Proof.Machine
end

section
/-! PROOFS. No run from a legal state faults (40_automaton.md R116; 60_exceptions.md R153): the one fault is a dispatch
without an execute state, which the legal states exclude. -/

namespace Sys2Proof.Machine

/-! ## Nothing but a dispatch faults -/

theorem exec_completes (i : Instr) (s : State) : ∃ t, exec i s = .next t := by
  cases i <;> exact ⟨_, rfl⟩

/-- Bytes execute to a next state: those of an instruction by its execution, all others by the decode fault (R127). -/
theorem executeBytes_completes (bytes : List Byte) (s : State) : ∃ t, executeBytes bytes s = .next t := by
  unfold executeBytes
  split
  · exact exec_completes _ s
  · exact ⟨_, rfl⟩

section
variable {s : State}

/-- In a legal state every dispatch has an execute state (R116). -/
theorem Inv.dispatchStuck_eq_false (h : Inv s) : dispatchStuck s.auto = false := by
  by_cases hs : s.auto.st = .fetchParams
  · obtain ⟨⟨hsome, -⟩, -⟩ := h.decoded_of_fetchParams hs
    simp [dispatchStuck, Option.isNone_eq_false_iff.mpr hsome]
  · simp [dispatchStuck, hs]

/-- From a legal state every run to the instruction boundary gets there. -/
theorem Inv.runToBoundary_completes (h : Inv s) : ∃ t, runToBoundary s = .next t := by
  cases hs : s.auto.st with
  | fetchOp =>
    rw [runToBoundary_fetchOp hs, runInstruction]
    exact executeBytes_completes _ _
  | fetchParams =>
    obtain ⟨⟨hsome, -⟩, hle⟩ := h.decoded_of_fetchParams hs
    rw [runToBoundary_fetchParams hs, finishFetchParams_eq hle hsome]
    exact executeBytes_completes _ _
  | _ => simp [runToBoundary, hs]

/-! ## Steps and runs -/

theorem Inv.clock_ne_fault (h : Inv s) (inp : Inputs) (f : Fault) : clock inp s ≠ .fault f := by
  unfold clock
  rw [h.dispatchStuck_eq_false]
  split
  · nofun
  · split <;> nofun

theorem Inv.step_ne_fault (h : Inv s) (f : Fault) : step s ≠ .fault f := by
  unfold step
  split
  · next rest _ => exact (h.of_environment rest s.thereafter).clock_ne_fault _ f
  · split
    · obtain ⟨t, ht⟩ := h.runToBoundary_completes
      rw [ht]
      nofun
    · exact h.clock_ne_fault _ f
    · next n _ => exact (h.of_environment s.inputs (.drawn (n + 1))).clock_ne_fault _ f

end

/-- Settles O54, by induction on the number of steps: no step of a legal state faults, and it leaves a legal state. -/
theorem noRunFromALegalStateFaults : Obligations.NoRunFromALegalStateFaults := by
  unfold Obligations.NoRunFromALegalStateFaults
  intro n
  induction n with
  | zero => exact fun s _ f => nofun
  | succ n ih =>
    intro s h f
    cases ht : Host.Core.step Sys2Proof.core s with
    | next t =>
      simp only [Host.Core.run, ht]
      exact ih t (stepKeepsTheLegalStates s t h ht) f
    | fault g => exact absurd ht (h.step_ne_fault g)
    | refused r =>
      simp only [Host.Core.run, ht]
      nofun

end Sys2Proof.Machine
end

section
/-! PROOFS. The automaton's rule in each state: its next state, `pc`, and what it keeps (40_automaton.md R111 to R120,
42_configuration.md R132, R133, 43_handoff.md R143, 44_debug.md R148), from any state. -/

namespace Sys2Proof.Machine

/-! ## The opcodes with an execute state (R116) -/

theorem execState_isSome_iff (b : Byte) : (execState b).isSome = true ↔ 2 ≤ b.toNat ∧ b.toNat ≤ 7 := by
  unfold execState Opcode.ofByte
  split <;> simp_all [opcodeExecState]
  omega

/-! ## The next state and `pc` of each rule -/

section
variable {a : Automaton}

theorem fetchOpCycle_of_execState {b : Byte} (h : (execState b).isSome = true) :
    fetchOpCycle b a = .quiet (acceptOpcode b a) := by
  obtain ⟨st, hst⟩ := Option.isSome_iff_exists.mp h
  simp [fetchOpCycle, hst]

theorem fetchOpCycle_of_no_execState {b : Byte} (h : (execState b).isSome ≠ true) :
    fetchOpCycle b a = { AutoCycle.quiet Automaton.reset with clear := true } := by
  simp only [fetchOpCycle, Option.not_isSome_iff_eq_none.mp h]

theorem fetchParamsCycle_of_lt (h : a.paramCnt < a.nParams) (ready : Bool) (b : Byte) :
    fetchParamsCycle ready b a = .quiet (if ready then acceptOperand b a else a) := by
  simp [fetchParamsCycle, h]

/-- With all operands there FETCH_PARAMS dispatches, whatever the adaptor answers (R115). -/
theorem fetchParamsCycle_of_eq (h : a.paramCnt = a.nParams) {st : AutoState}
    (hst : execState a.opcode = some st) (ready : Bool) (b : Byte) :
    fetchParamsCycle ready b a = .quiet { a with st := st } := by
  simp [fetchParamsCycle, h, hst]

/-- Away from a dispatch FETCH_PARAMS keeps its state (R114). -/
theorem fetchParamsCycle_st_of_ne (h : a.paramCnt ≠ a.nParams) (ready : Bool) (b : Byte) :
    (fetchParamsCycle ready b a).next.st = a.st := by
  unfold fetchParamsCycle
  rw [if_neg h]
  split
  · split
    · exact (acceptOperand_frame b a).1
    · rfl
  · rfl

theorem fetchParamsCycle_pc (ready : Bool) (b : Byte) :
    (fetchParamsCycle ready b a).next.pc = a.pc ∨
      (ready = true ∧ (fetchParamsCycle ready b a).next.pc = a.pc + 1) := by
  unfold fetchParamsCycle
  split
  · cases ready with
    | false => exact .inl rfl
    | true => exact .inr ⟨rfl, acceptOperand_pc b a⟩
  · refine .inl ?_
    split
    · split <;> rfl
    · rfl

section
variable (base iters : Nat) (wsel ready : Bool) (L : Line)

theorem transferCycle_st : (transferCycle base iters wsel ready L a).next.st =
    if a.offset.toNat = iters then .fetchOp else a.st := by
  unfold transferCycle
  split_ifs <;> rfl

theorem transferCycle_pc : (transferCycle base iters wsel ready L a).next.pc = a.pc := by
  unfold transferCycle
  split_ifs <;> rfl

end

theorem handoffCycle_st (done : Bool) : (handoffCycle done a).next.st = if done = true then .fetchOp else a.st := by
  unfold handoffCycle AutoCycle.quiet
  split_ifs <;> rfl

theorem handoffCycle_pc (done : Bool) : (handoffCycle done a).next.pc = a.pc := by
  unfold handoffCycle AutoCycle.quiet
  split_ifs <;> rfl

theorem debugCycle_st (P : Params) (i : CoreInputs) : (debugCycle P i a).next.st =
    if a.offset.toNat = P.debugLines then .fetchOp else a.st := by
  unfold debugCycle AutoCycle.quiet
  split_ifs <;> rfl

theorem debugCycle_pc (P : Params) (i : CoreInputs) : (debugCycle P i a).next.pc = a.pc := by
  unfold debugCycle AutoCycle.quiet
  split_ifs <;> rfl

end

/-! ## The rule of each state -/

section
variable {inp : Inputs} {s t : State}

theorem automatonAnswer_reset (hs : s.auto.st = .reset) : automatonAnswer inp s =
    .quiet (if inp.start then { s.auto with st := .fetchOp } else s.auto) := by
  simp only [automatonAnswer, automatonCycle, hs]
  rfl

theorem automatonAnswer_fetchParams (hs : s.auto.st = .fetchParams) : automatonAnswer inp s =
    fetchParamsCycle (accepts inp s) (acceptedByte inp s) s.auto := by
  simp [automatonAnswer, automatonCycle, hs, accepts, acceptedByte]

theorem automatonAnswer_configureStates (hs : s.auto.st = .configureStates) : automatonAnswer inp s =
    transferCycle stateNodeBase itersS false (accepts inp s) (adaptorAnswer inp s).rdLine s.auto := by
  simp [automatonAnswer, automatonCycle, hs, accepts]

theorem automatonAnswer_configureWeights (hs : s.auto.st = .configureWeights) : automatonAnswer inp s =
    transferCycle params.weightNodeBase params.itersW true (accepts inp s) (adaptorAnswer inp s).rdLine s.auto := by
  simp [automatonAnswer, automatonCycle, hs, accepts]

/-- The automaton's registers after a cycle without `rst` are what its rule answers (R109). -/
theorem clock_auto (hr : inp.rst = false) (hc : clock inp s = .next t) : t.auto = (automatonAnswer inp s).next := by
  obtain ⟨-, -, ht⟩ := clock_next hc
  obtain ⟨hauto, -⟩ := coreCycleOf_of_not_rst (s := s) hr
  rw [ht]
  exact hauto

/-- A cycle whose rule assigns no output changes the automaton as the rule says and the adaptor as it answers, and lets
the host write (R109, R174). -/
theorem clock_of_quiet (hadm : Admitted inp s) (hd : dispatchStuck s.auto = false) (hr : inp.rst = false)
    {a : Automaton} (hau : automatonAnswer inp s = .quiet a) :
    clock inp s = .next { s with
      auto := a
      adaptor := (adaptorAnswer inp s).next
      mem := s.mem.writeLines inp.hostWrites
      dfBusy := false } := by
  obtain ⟨hauto, hadaptor, hlanes, hreq, -, -, hval⟩ := coreCycleOf_of_not_rst (s := s) hr
  have hh : s.auto.st.isHandoff = false := by
    rw [← automatonAnswer_dfValid inp s, hau]
    rfl
  rw [hau] at hauto hadaptor hlanes hreq hval
  have henv := environmentCycle_of_host hlanes hreq hval (hadm.dfWrites_eq_nil hh) (s := s)
  rw [outputs] at henv
  simp only [clock, hadm.1, hadm.2, hd, henv, hauto, hadaptor]
  rfl

end

/-! ## The transitions and `pc` -/

/-- Settles O42: the next state of each rule, in a cycle with a next state no dispatch being stuck. -/
theorem transitionsAreTheListedOnes : Obligations.TransitionsAreTheListedOnes := by
  unfold Obligations.TransitionsAreTheListedOnes
  intro inp s t hc
  refine ⟨fun hr => by rw [clock_rst hr hc]; rfl, fun hr => ?_, rfl, rfl, rfl, rfl, rfl, rfl⟩
  rw [clock_auto hr hc]
  refine ⟨fun hs => ?_, fun hs => ?_, fun hs heq => ?_, fun hs hne => ?_, fun hs => ?_, fun hs => ?_, fun hh => ?_,
    fun hs => ?_⟩
  · rw [automatonAnswer_reset hs]
    cases inp.start with
    | false => exact hs
    | true => rfl
  · rw [automatonAnswer_fetchOp hs]
    cases accepts inp s with
    | false => exact hs
    | true =>
      rw [if_pos rfl, if_neg (by decide)]
      split
      · next hb => rw [fetchOpCycle_of_execState ((execState_isSome_iff _).mpr hb)]; rfl
      · next hb => rw [fetchOpCycle_of_no_execState ((execState_isSome_iff _).not.mpr hb)]; rfl
  · obtain ⟨-, hstuck, -⟩ := clock_next hc
    obtain ⟨st, hst⟩ : ∃ st, execState s.auto.opcode = some st :=
      Option.isSome_iff_exists.mp (by simpa [dispatchStuck, hs, heq, hr] using hstuck)
    rw [automatonAnswer_fetchParams hs, fetchParamsCycle_of_eq heq hst, hst]
    rfl
  · rw [automatonAnswer_fetchParams hs, fetchParamsCycle_st_of_ne hne, hs]
  · rw [automatonAnswer_configureStates hs, transferCycle_st, hs, itersS_eq]
  · rw [automatonAnswer_configureWeights hs, transferCycle_st, hs, params_itersW]
  · rw [automatonAnswer_handoff hh, handoffCycle_st]
  · rw [automatonAnswer_debug hs, debugCycle_st, hs, params_debugLines]

/-- Settles O43: the rules of FETCH_OP and FETCH_PARAMS, and `rst`; every other rule keeps `pc`. -/
theorem pcAdvancesByOneOrIsReset : Obligations.PcAdvancesByOneOrIsReset := by
  unfold Obligations.PcAdvancesByOneOrIsReset
  intro inp s t hc
  cases hr : inp.rst with
  | true => exact .inr (.inr (by rw [clock_rst hr hc]; exact ⟨rfl, rfl⟩))
  | false =>
    rw [clock_auto hr hc]
    have hhand (hh : s.auto.st.isHandoff = true) : (automatonAnswer inp s).next.pc = s.auto.pc := by
      rw [automatonAnswer_handoff hh, handoffCycle_pc]
    cases hs : s.auto.st with
    | reset =>
      rw [automatonAnswer_reset hs]
      cases inp.start <;> exact .inl rfl
    | fetchOp =>
      rw [automatonAnswer_fetchOp hs]
      cases ha : accepts inp s with
      | false => exact .inl rfl
      | true =>
        rw [if_pos rfl]
        by_cases hb : (execState (acceptedByte inp s)).isSome = true
        · rw [fetchOpCycle_of_execState hb]
          exact .inr (.inl ⟨rfl, .inl rfl, rfl⟩)
        · rw [fetchOpCycle_of_no_execState hb]
          exact .inr (.inr ⟨rfl, rfl⟩)
    | fetchParams =>
      rw [automatonAnswer_fetchParams hs]
      exact (fetchParamsCycle_pc _ _).imp_right fun ⟨ha, hpc⟩ => .inl ⟨hpc, .inr rfl, ha⟩
    | configureStates => exact .inl (by rw [automatonAnswer_configureStates hs, transferCycle_pc])
    | configureWeights => exact .inl (by rw [automatonAnswer_configureWeights hs, transferCycle_pc])
    | loadFeatures => exact .inl (hhand (by rw [hs]; rfl))
    | storeFeatures => exact .inl (hhand (by rw [hs]; rfl))
    | run => exact .inl (hhand (by rw [hs]; rfl))
    | debug => exact .inl (by rw [automatonAnswer_debug hs, debugCycle_pc])

end Sys2Proof.Machine
end

section
/-! PROOFS. The cycles of the automaton: the request that is held (40_automaton.md R119), FETCH_OP and FETCH_PARAMS
(R113 to R115), `start` (R112) and `status` (R117; 10_state.md R27). -/

namespace Sys2Proof.Machine

section
variable {inp : Inputs} {s t : State}

/-! ## The request is held -/

/-- A transfer that requests a line has not reached its end (R111). -/
theorem offset_ne_of_transferRequest {iters : Nat} {a : Automaton} (hq : (transferRequest iters a).req = true) :
    a.offset.toNat ≠ iters := by
  intro heq
  simp [transferRequest, heq, Request.quiet] at hq

/-- A cycle that does not accept the automaton's request leaves the automaton's registers (R111, R119). -/
theorem automatonAnswer_next_of_not_accepts (hq : (request params s.auto).req = true) (ha : accepts inp s = false) :
    (automatonAnswer inp s).next = s.auto := by
  have hquiet {st : AutoState} (hs : s.auto.st = st) (hst : request params { s.auto with st := st } = .quiet) :
      (automatonAnswer inp s).next = s.auto := by
    subst hs
    rw [hst] at hq
    cases hq
  cases hs : s.auto.st with
  | fetchOp => rw [automatonAnswer_fetchOp hs, ha]; rfl
  | fetchParams =>
    have hlt : s.auto.paramCnt < s.auto.nParams := by
      by_contra hge
      simp [request, hs, hge, Request.quiet] at hq
    rw [automatonAnswer_fetchParams hs, fetchParamsCycle_of_lt hlt, ha]
    rfl
  | configureStates =>
    have hne := offset_ne_of_transferRequest (iters := itersS) (by simpa [request, hs] using hq)
    rw [automatonAnswer_configureStates hs, transferCycle, if_neg hne, ha]
    rfl
  | configureWeights =>
    have hne := offset_ne_of_transferRequest (iters := params.itersW) (by simpa [request, hs] using hq)
    rw [automatonAnswer_configureWeights hs, transferCycle, if_neg hne, ha]
    rfl
  | reset => exact hquiet hs rfl
  | loadFeatures => exact hquiet hs rfl
  | storeFeatures => exact hquiet hs rfl
  | run => exact hquiet hs rfl
  | debug => exact hquiet hs rfl

end

/-- Settles O33: the request is a function of registers that a cycle without acceptance keeps. -/
theorem requestIsHeldUntilAnswered : Obligations.RequestIsHeldUntilAnswered := by
  unfold Obligations.RequestIsHeldUntilAnswered
  intro inp s t hr hc hq hready
  have ha : accepts inp s = false := by simp [accepts, hready]
  rw [clock_auto hr hc, automatonAnswer_next_of_not_accepts hq ha]

/-! ## FETCH_OP and FETCH_PARAMS -/

/-- The operand count of an opcode with an execute state (R15, R30). -/
theorem nParams_of_execState {b : Byte} (h2 : 2 ≤ b.toNat) (h7 : b.toNat ≤ 7) :
    BitVec.ofNat 3 (arity b) = if b.toNat = 4 ∨ b.toNat = 5 then 5 else 3 := by
  rw [arity_eq]
  split_ifs <;> first | rfl | omega

/-- Settles O34: FETCH_OP's rule assigns no output, and its byte has an execute state. -/
theorem fetchOpDecodesARecognisedOpcode : Obligations.FetchOpDecodesARecognisedOpcode := by
  unfold Obligations.FetchOpDecodesARecognisedOpcode
  intro inp s hr hadm hs ha h2 h7
  have hau : automatonAnswer inp s = .quiet (acceptOpcode (acceptedByte inp s) s.auto) := by
    rw [automatonAnswer_fetchOp hs, if_pos ha,
      fetchOpCycle_of_execState ((execState_isSome_iff _).mpr ⟨h2, h7⟩)]
  refine ⟨_, clock_of_quiet hadm (by simp [dispatchStuck, hs]) hr hau, ?_, ?_, ⟨rfl, rfl⟩, rfl⟩
  · simp only [acceptOpcode, nParams_of_execState h2 h7]
  · rw [hadm.hostWrites_eq_nil (by simp [hs]), Memory.writeLines_nil]

/-- In a legal state an admitted cycle has a next state (R116). -/
theorem Inv.exists_clock {inp : Inputs} {s : State} (h : Inv s) (hadm : Admitted inp s) : ∃ t, clock inp s = .next t := by
  simp [clock, hadm.1, hadm.2, h.dispatchStuck_eq_false]

/-- While operands are fetched `offset` is 0 (R35). -/
theorem Inv.offset_eq_zero_of_fetchParams {s : State} (h : Inv s) (hs : s.auto.st = .fetchParams) :
    s.auto.offset = 0 := by
  have hle := h.offset_le
  rw [hs, offsetBound] at hle
  bv_omega

/-- Settles O37: the three kinds of cycle of FETCH_PARAMS. -/
theorem fetchParamsStreamsThenDispatches : Obligations.FetchParamsStreamsThenDispatches := by
  unfold Obligations.FetchParamsStreamsThenDispatches
  intro inp s h hr hadm hs
  obtain ⟨t, hc⟩ := h.exists_clock hadm
  refine ⟨t, hc, ?_⟩
  rcases clock_fetchParams h hs hr hc with ⟨hlt, ha, rfl⟩ | ⟨hlt, ha, rfl⟩ | ⟨heq, st, hst, rfl⟩
  · exact ⟨fun _ ha' => absurd ha' (by simp [ha]), fun _ _ => rfl, fun heq => absurd heq (BitVec.ne_of_lt hlt), rfl,
      ⟨rfl, rfl⟩, rfl⟩
  · exact ⟨fun _ _ => rfl, fun _ ha' => absurd ha' (by simp [ha]), fun heq => absurd heq (BitVec.ne_of_lt hlt), rfl,
      ⟨rfl, rfl⟩, rfl⟩
  · have hnlt : ¬ s.auto.paramCnt < s.auto.nParams := by simp [heq]
    have hq : (request params s.auto).req = false := by simp [request, hs, hnlt, Request.quiet]
    have hrd : (outputs inp s).rdReq = false := by
      obtain ⟨-, hrd, -⟩ := outputs_of_not_rst (s := s) hr
      rw [hrd, adaptorAnswer, adaptorCycle_of_no_request (h.phase_eq_idle hq) hq]
    exact ⟨fun hlt => absurd hlt hnlt, fun hlt => absurd hlt hnlt,
      fun _ => ⟨hst, rfl, rfl, hrd, h.offset_eq_zero_of_fetchParams hs, h.wrWait_eq_false (by simp [hs])⟩, rfl,
      ⟨rfl, rfl⟩, rfl⟩

/-! ## `start` -/

/-- Outside RESET the automaton's rule does not look at `start` (R112). -/
theorem automatonCycle_of_start {a : Automaton} (hs : a.st ≠ .reset) (P : Params) (q : Request) (ac : AdaptorCycle)
    (i : CoreInputs) (b : Bool) : automatonCycle P q ac { i with start := b } a = automatonCycle P q ac i a := by
  unfold automatonCycle
  cases hst : a.st with
  | reset => exact absurd hst hs
  | _ => rfl

/-- Neither does the adaptor, in any state (R62). -/
theorem adaptorCycle_of_start (q : Request) (i : CoreInputs) (d : Adaptor) (b : Bool) :
    adaptorCycle q { i with start := b } d = adaptorCycle q i d := rfl

/-- Outside RESET CORE does not look at `start` (R112). -/
theorem coreCycle_of_start {a : Automaton} (hs : a.st ≠ .reset) (P : Params) (i : CoreInputs) (d : Adaptor) (b : Bool) :
    coreCycle P { i with start := b } a d = coreCycle P i a d := by
  simp only [coreCycle, adaptorCycle_of_start, automatonCycle_of_start hs]

/-- Settles O41: RESET's rule assigns no output; in any other state neither CORE nor the two guards look at `start`. -/
theorem startIsSampledOnlyInReset : Obligations.StartIsSampledOnlyInReset := by
  unfold Obligations.StartIsSampledOnlyInReset
  refine ⟨fun inp s hr hadm hs hi => ?_, fun inp b s hs => ?_⟩
  · have hans : adaptorAnswer inp s =
        { next := s.adaptor, byteReady := true, rdLine := s.adaptor.cData, rdReq := false, rdAddr := 0 } :=
      adaptorCycle_of_no_request hi (by simp [request, hs, Request.quiet])
    obtain ⟨-, hrd, -⟩ := outputs_of_not_rst (s := s) hr
    refine ⟨_, clock_of_quiet hadm (by simp [dispatchStuck, hs]) hr (automatonAnswer_reset hs), ?_, by rw [hans], rfl,
      ⟨rfl, rfl⟩, by rw [hrd, hans]⟩
    cases inp.start with
    | false => rw [if_neg nofun, if_neg nofun, ← hs]
    | true => rfl
  · have hhost : hostBreaksDuty { inp with start := b } s = hostBreaksDuty inp s := by simp [hostBreaksDuty, hs]
    have hdf : dataflowBreaksDuty { inp with start := b } s = dataflowBreaksDuty inp s := rfl
    have hcore : coreCycleOf { inp with start := b } s = coreCycleOf inp s :=
      coreCycle_of_start hs params (coreInputs inp s) s.adaptor b
    have henv (out : CoreOutputs) : environmentCycle { inp with start := b } out s = environmentCycle inp out s := rfl
    simp only [clock, hhost, hdf, hcore, henv]

/-! ## `status` -/

/-- The state of a code (R27). -/
def AutoState.ofCode (c : BitVec 4) : AutoState :=
  match c.toNat with
  | 1 => .fetchOp
  | 2 => .fetchParams
  | 3 => .configureStates
  | 4 => .configureWeights
  | 5 => .loadFeatures
  | 6 => .storeFeatures
  | 7 => .run
  | 8 => .debug
  | _ => .reset

theorem AutoState.ofCode_code (st : AutoState) : AutoState.ofCode st.code = st := by
  cases st <;> rfl

/-- Settles O3: `status` with and without `rst`; a code determines its state. -/
theorem statusIsTheStateCode : Obligations.StatusIsTheStateCode := by
  unfold Obligations.StatusIsTheStateCode
  refine ⟨fun inp s => ?_, rfl, rfl, rfl, rfl, rfl, rfl, rfl, rfl, rfl,
    fun _ _ h => Function.LeftInverse.injective AutoState.ofCode_code h⟩
  cases hr : inp.rst with
  | true =>
    rw [outputs, coreCycleOf_of_rst hr]
    rfl
  | false =>
    obtain ⟨hstatus, -⟩ := outputs_of_not_rst (s := s) hr
    exact hstatus

end Sys2Proof.Machine
end

section
/-! PROOFS. The place of an operand byte in the staging registers (40_automaton.md R114; 10_state.md R32 to R34). -/

namespace Sys2Proof.Machine

/-- The byte written into the address register is read back (R32, R89). -/
theorem addrByte_setAddrByte_same {k : Nat} (hk : k < 3) (b : Byte) (a : LineAddr) :
    addrByte (setAddrByte k b a) k = b := by
  unfold addrByte setAddrByte
  ext i hi
  split <;> grind

/-- The other two bytes of the address register stay (R32). -/
theorem addrByte_setAddrByte_other {k j : Nat} (hk : k < 3) (hj : j < 3) (hne : j ≠ k) (b : Byte) (a : LineAddr) :
    addrByte (setAddrByte k b a) j = addrByte a j := by
  unfold addrByte setAddrByte
  ext i hi
  split <;> grind

/-- The first three operand bytes go to the address register (R32, R114). -/
theorem acceptOperand_of_lt_three (b : Byte) {a : Automaton} (h : a.paramCnt.toNat < 3) : acceptOperand b a =
    { a with addr := setAddrByte a.paramCnt.toNat b a.addr, paramCnt := a.paramCnt + 1, pc := a.pc + 1 } := by
  simp [acceptOperand, Config.addrBytes, h]

/-- Settles O36: the three places. -/
theorem operandByteGoesToItsPlace : Obligations.OperandByteGoesToItsPlace := by
  unfold Obligations.OperandByteGoesToItsPlace
  refine fun b a => ⟨fun k hk hcnt => ?_, fun hcnt => ?_, fun hcnt => ?_⟩
  · rw [acceptOperand_of_lt_three b (by omega), hcnt]
    exact ⟨addrByte_setAddrByte_same hk b a.addr, fun j hj hne => addrByte_setAddrByte_other hk hj hne b a.addr, rfl⟩
  · simp [acceptOperand, Config.addrBytes, hcnt]
  · simp [acceptOperand, Config.addrBytes, hcnt]

end Sys2Proof.Machine
end

section
/-! PROOFS. The observed results of the instructions (40_automaton.md R121, R122, R124): the node writes of a transfer
(42_configuration.md R132, R133, R138), and the hand-off of `Run` (43_handoff.md R143, R146). -/

namespace Sys2Proof.Machine

/-! ## The node writes of one line -/

/-- Of the first `N` numbers, the `w` from `a` on, as far as they are there. -/
theorem filterMap_range_interval {α : Type} (a w N : Nat) (g : Nat → α) :
    ((List.range N).filterMap fun n => if a ≤ n ∧ n < a + w then some (g (n - a)) else none) =
      (List.range (min w (N - a))).map g := by
  induction N with
  | zero => simp
  | succ N ih =>
    rw [List.range_succ, List.filterMap_append, ih]
    by_cases hin : a ≤ N ∧ N < a + w
    · have hold : min w (N - a) = N - a := by omega
      have hnew : min w (N + 1 - a) = N - a + 1 := by omega
      simp [hin, hold, hnew, List.range_succ]
    · have hsame : min w (N + 1 - a) = min w (N - a) := by omega
      simp [hin, hsame]

/-- The node writes of line `k` of a transfer: byte `4k + i` of the payload to node `base + 4k + i`, as far as there are
nodes (R132, R133, R138). -/
def payloadWrites (base : Nat) (wsel : Bool) (m : Memory) (line : LineAddr) (k : Nat) : List NodeWrite :=
  (List.range (min 4 (Config.numNodes - (base + 4 * k)))).map fun i =>
    ⟨base + 4 * k + i, payloadByte m line (4 * k + i), wsel⟩

/-- Byte `4k + i` of the payload is byte `i` of its line `k` (R98). -/
theorem payloadByte_add (m : Memory) (line : LineAddr) (o : BitVec 5) {i : Nat} (hi : i < 4) :
    payloadByte m line (4 * o.toNat + i) = m.read (byteKey (lineAt line o) i) := by
  have hline : (4 * o.toNat + i) / 4 = o.toNat := by omega
  have hsel : (4 * o.toNat + i) % 4 = i := by omega
  simp [payloadByte, hline, hsel, lineAt]

section
variable {base : Nat} (wsel : Bool)

theorem nodeWrites_readLine (m : Memory) (line : LineAddr) {o : BitVec 5} (hb : base + 4 * o.toNat + 4 ≤ 64) :
    nodeWrites (driveLanes base o.toNat wsel (m.readLine (lineAt line o))) = payloadWrites base wsel m line o.toNat := by
  have hnode (n : Nat) :
      (let c := muxNode (driveLanes base o.toNat wsel (m.readLine (lineAt line o))) n
        if c.en then some (⟨n, c.data, c.wsel⟩ : NodeWrite) else none) =
      if base + 4 * o.toNat ≤ n ∧ n < base + 4 * o.toNat + 4 then
        some ⟨base + 4 * o.toNat + (n - (base + 4 * o.toNat)),
          payloadByte m line (4 * o.toNat + (n - (base + 4 * o.toNat))), wsel⟩
      else none := by
    rw [muxNode_readLine hb]
    split
    · next hin => rw [payloadByte_add m line o (by omega), Nat.add_sub_cancel' hin.1]; rfl
    · rfl
  simp only [nodeWrites, hnode]
  exact filterMap_range_interval (base + 4 * o.toNat) 4 Config.numNodes fun i =>
    (⟨base + 4 * o.toNat + i, payloadByte m line (4 * o.toNat + i), wsel⟩ : NodeWrite)

/-! ## The node writes of a transfer -/

theorem transferLine_events (s : State) (hb : base + 4 * s.auto.offset.toNat + 4 ≤ 64) :
    (transferLine base wsel s).events =
      .nodeWrites (payloadWrites base wsel s.mem s.auto.addr s.auto.offset.toNat) :: s.events := by
  simp [transferLine, requestLine_bulk, sinkLanes_driveLanes, nodeWrites_readLine wsel _ _ hb]

/-- `n` lines of a transfer are observed in order, newest first (R122). -/
theorem transferLines_events (n : Nat) (s : State) (hb : base + 4 * (s.auto.offset.toNat + n) ≤ 64)
    (hn : s.auto.offset.toNat + n < 32) :
    (transferLines base wsel n s).events =
      ((List.range n).map fun k =>
        Event.nodeWrites (payloadWrites base wsel s.mem s.auto.addr (s.auto.offset.toNat + k))).reverse ++ s.events := by
  induction n generalizing s with
  | zero => rfl
  | succ n ih =>
    have hoff : (transferLine base wsel s).auto.offset.toNat = s.auto.offset.toNat + 1 := by
      rw [transferLine_auto]
      bv_omega
    rw [transferLines, ih _ (by omega) (by omega), hoff, transferLine_events wsel s (by omega), transferLine_mem,
      transferLine_auto, List.range_succ_eq_map]
    simp [Function.comp_def, Nat.add_assoc, Nat.add_comm 1]

/-- A transfer run from its first line writes the nodes line by line (R121, R132, R133). -/
theorem finishTransfer_events {iters : Nat} {s : State} {writes : Nat → List NodeWrite} (ho : s.auto.offset.toNat = 0)
    (hb : base + 4 * iters ≤ 64) (hi : iters < 32)
    (hw : ∀ k < iters, payloadWrites base wsel s.mem s.auto.addr k = writes k) :
    (finishTransfer base iters wsel s).events =
      ((List.range iters).map fun k => Event.nodeWrites (writes k)).reverse ++ s.events := by
  have hlines := transferLines_events (base := base) wsel iters s (by omega) (by omega)
  simp only [ho, Nat.zero_add] at hlines
  rw [finishTransfer_of_start ho, endExecution_events, hlines,
    List.map_congr_left fun k hk => congrArg Event.nodeWrites (hw k (List.mem_range.mp hk))]

end

/-- The 16 state lines reach the nodes below 63: the last one has three (R135). -/
theorem payloadWrites_states (m : Memory) (line : LineAddr) {k : Nat} (hk : k < 16) :
    payloadWrites stateNodeBase false m line k =
      ((List.range 4).filter fun i => decide (4 * k + i < 63)).map fun i =>
        ⟨4 * k + i, payloadByte m line (4 * k + i), false⟩ := by
  have hnodes : ∀ k < 16, List.range (min 4 (63 - 4 * k)) = (List.range 4).filter fun i => decide (4 * k + i < 63) := by
    decide
  simp only [payloadWrites, stateNodeBase_eq, Nat.zero_add, hnodes k hk]

/-- The 8 weight lines reach four nodes each (R135). -/
theorem payloadWrites_weights (m : Memory) (line : LineAddr) {k : Nat} (hk : k < 8) :
    payloadWrites params.weightNodeBase true m line k =
      (List.range 4).map fun i => ⟨31 + 4 * k + i, payloadByte m line (4 * k + i), true⟩ := by
  have hnodes : min 4 (63 - (31 + 4 * k)) = 4 := by omega
  simp only [payloadWrites, params_weightNodeBase, hnodes]

/-- Settles O18: the two transfers from their first lines, line by line. -/
theorem transfersWriteTheNodesInOrder : Obligations.TransfersWriteTheNodesInOrder := by
  unfold Obligations.TransfersWriteTheNodesInOrder
  refine fun line s => ⟨⟨_, rfl, ?_⟩, ⟨_, rfl, ?_⟩⟩
  · exact finishTransfer_events (base := stateNodeBase) (s := stage .configureStates .configureStates line s) false rfl
      (by decide) (by decide) fun k hk => payloadWrites_states s.mem line hk
  · exact finishTransfer_events (base := params.weightNodeBase)
      (s := stage .configureWeights .configureWeights line s) true rfl (by decide) (by decide)
      fun k hk => payloadWrites_weights s.mem line hk

/-! ## `Run` -/

/-- Settles O20: the whole hand-off from the staged registers, field by field. -/
theorem runHandsOffItsLength : Obligations.RunHandsOffItsLength := by
  unfold Obligations.RunHandsOffItsLength
  intro len s
  refine ⟨performHandoff (stage .run .run len s), rfl, performHandoff_auto _, performHandoff_adaptor _,
    ⟨performHandoff_nodeState _, performHandoff_nodeWeight _⟩, performHandoff_events _, performHandoff_mem _,
    fun a ha => ?_, performHandoff_inputs _, performHandoff_thereafter _, performHandoff_handoffWrites _,
    performHandoff_handoffDraws _, performHandoff_dfBusy _⟩
  rw [performHandoff_mem]
  exact Memory.read_writeLines_other s.mem (dataflowWrites s) ha

end Sys2Proof.Machine
end

section
/-! PROOFS. The reset action (41_control.md R125 to R128): by `Reset`, by a step on an unknown opcode, and in the cycle
of FETCH_OP that accepts the byte. -/

namespace Sys2Proof.Machine

/-- Settles O15: the execution of `Reset` is the reset action alone. -/
theorem resetZeroesTheAutomaton : Obligations.ResetZeroesTheAutomaton :=
  fun s => ⟨resetAction s, rfl, rfl, rfl, rfl, ⟨rfl, rfl⟩, ⟨rfl, rfl, rfl, rfl⟩, rfl, rfl⟩

/-- The bytes without an execute state are those outside 0x02 to 0x07 (R116). -/
theorem execState_eq_none_iff (b : Byte) : execState b = none ↔ b.toNat ≤ 1 ∨ 8 ≤ b.toNat := by
  rw [← Option.not_isSome_iff_eq_none, execState_isSome_iff]
  omega

/-- Settles O11: an unknown opcode has no execute state, so the instruction is its one byte and the reset action. -/
theorem stepOnUnknownOpcodeTakesTheResetAction : Obligations.StepOnUnknownOpcodeTakesTheResetAction := by
  unfold Obligations.StepOnUnknownOpcodeTakesTheResetAction
  intro s hi hf hs hb
  have he : execState (fetchByte s).1 = none := (execState_eq_none_iff _).mpr (by omega)
  have hstep : step s = .next (resetAction (fetchByte s).2) := by
    rw [step_of_fetchOp hi hf hs, runInstruction_of_no_execState he]
  exact ⟨_, hstep, rfl, rfl, fetchByte_mem s, ⟨fetchByte_nodeState s, fetchByte_nodeWeight s⟩,
    ⟨fetchByte_inputs s, fetchByte_thereafter s, fetchByte_handoffWrites s, fetchByte_handoffDraws s⟩,
    fetchByte_events s⟩

/-- A cycle in which the adaptor is ready leaves no fetch outstanding and presents no read request (R64, R66, R68). -/
theorem adaptorCycle_of_byteReady {q : Request} {i : CoreInputs} {d : Adaptor}
    (h : (adaptorCycle q i d).byteReady = true) :
    (adaptorCycle q i d).next.phase = .idle ∧ (adaptorCycle q i d).rdReq = false := by
  cases hp : d.phase with
  | idle =>
    cases hq : q.req with
    | false => simp [adaptorCycle_of_no_request hp hq, hp]
    | true =>
      cases hh : d.hits (lineOf q.baddr) q.bulk with
      | true => simp [adaptorCycle_of_hit hq hh, hp]
      | false => simp [adaptorCycle_of_miss hp hq hh] at h
  | issue => simp [adaptorCycle_of_issue hp] at h
  | wait =>
    cases hv : i.rdValid with
    | true => simp [adaptorCycle_of_arrival hp hv, Adaptor.filled]
    | false => simp [adaptorCycle_of_waiting hp hv] at h

section
variable {inp : Inputs} {s : State}

/-- FETCH_OP accepting a byte without an execute state zeroes the automaton, clears the cache valid bit and assigns no
output (R126). -/
theorem automatonAnswer_of_no_execState (hs : s.auto.st = .fetchOp) (ha : accepts inp s = true)
    (he : execState (acceptedByte inp s) = none) :
    automatonAnswer inp s = { AutoCycle.quiet Automaton.reset with clear := true } := by
  rw [automatonAnswer_fetchOp hs, if_pos ha, fetchOpCycle_of_no_execState (by simp [he])]

/-- In that cycle the system takes the reset action on what the adaptor's own cycle leaves, from any state. -/
theorem clock_of_no_execState (hadm : Admitted inp s) (hr : inp.rst = false) (hs : s.auto.st = .fetchOp)
    (ha : accepts inp s = true) (he : execState (acceptedByte inp s) = none) :
    clock inp s = .next (resetAction { s with adaptor := (adaptorAnswer inp s).next, dfBusy := false }) := by
  obtain ⟨hauto, hadaptor, hlanes, hwr, -, -, hval⟩ := coreCycleOf_of_not_rst (s := s) hr
  rw [automatonAnswer_of_no_execState hs ha he] at hauto hadaptor hlanes hwr hval
  rw [clock_of_admitted hadm (by simp [hs]), hauto, hadaptor,
    environmentCycle_of_host hlanes hwr hval (hadm.dfWrites_eq_nil (by rw [hs]; rfl)),
    hadm.hostWrites_eq_nil (by simp [hs])]
  rfl

end

/-- Settles O35: the next state by `clock_of_no_execState`, the outputs by the rule and the ready adaptor. -/
theorem fetchOpTakesTheResetAction : Obligations.FetchOpTakesTheResetAction := by
  unfold Obligations.FetchOpTakesTheResetAction
  intro inp s hr hadm hs ha hb
  have he := (execState_eq_none_iff _).mpr hb
  obtain ⟨-, hready⟩ := Bool.and_eq_true_iff.mp ha
  obtain ⟨hidle, hquiet⟩ := adaptorCycle_of_byteReady hready
  obtain ⟨hstatus, hrd, -⟩ := outputs_of_not_rst (s := s) hr
  obtain ⟨-, -, hlanes, hwr, -, -, hval⟩ := coreCycleOf_of_not_rst (s := s) hr
  rw [automatonAnswer_of_no_execState hs ha he] at hlanes hwr hval
  rw [hs] at hstatus
  exact ⟨_, clock_of_no_execState hadm hr hs ha he, rfl, rfl, hidle, rfl, ⟨rfl, rfl⟩, rfl, hrd.trans hquiet, hlanes,
    hwr, hval, hstatus⟩

end Sys2Proof.Machine
end

section
/-! PROOFS. The two configuration instructions as a whole (42_configuration.md R132 to R135): what a transfer run from its
first line keeps of the state, and the line it leaves cached. -/

namespace Sys2Proof.Machine

/-! ## Several lines of a transfer -/

section
variable (base : Nat) (wsel : Bool)

/-- The last of `n + 1` lines comes after the `n` before it. -/
theorem transferLines_succ (n : Nat) (s : State) :
    transferLines base wsel (n + 1) s = transferLine base wsel (transferLines base wsel n s) := by
  induction n generalizing s with
  | zero => rfl
  | succ n ih => exact ih (transferLine base wsel s)

/-- Of the automaton `n` lines change `offset` alone, which counts them modulo 2^5 (R35, R132). -/
theorem transferLines_auto (n : Nat) (s : State) :
    (transferLines base wsel n s).auto = { s.auto with offset := s.auto.offset + BitVec.ofNat 5 n } := by
  induction n with
  | zero => simp [transferLines]
  | succ n ih => rw [transferLines_succ, transferLine_auto, ih, BitVec.ofNat_add, ← BitVec.add_assoc]; rfl

/-- Beside the registers of CORE and of the nodes, and the record of the node writes, `n` lines change nothing (R122). -/
theorem transferLines_frame (n : Nat) (s : State) :
    (transferLines base wsel n s).mem = s.mem ∧ SameQueues s (transferLines base wsel n s) ∧
      (transferLines base wsel n s).dfBusy = s.dfBusy := by
  induction n with
  | zero => exact ⟨rfl, ⟨rfl, rfl, rfl, rfl⟩, rfl⟩
  | succ n ih => simpa [transferLines_succ, SameQueues] using ih

/-- The adaptor holds the last line of the transfer, whatever it held before (R68, R71). -/
theorem transferLines_adaptor (n : Nat) (s : State) :
    (transferLines base wsel (n + 1) s).adaptor =
      Adaptor.filled (lineAt s.auto.addr (s.auto.offset + BitVec.ofNat 5 n))
        (s.mem.readLine (lineAt s.auto.addr (s.auto.offset + BitVec.ofNat 5 n))) := by
  rw [transferLines_succ, transferLine_adaptor, transferLines_auto, (transferLines_frame base wsel n s).1]

end

/-- Line `n` of a transfer from `line` on, as `offset` counts it (R134). -/
theorem lineAt_ofNat (line : LineAddr) {n : Nat} (hn : n < 32) :
    lineAt line (BitVec.ofNat 5 n) = line + BitVec.ofNat 24 n := by
  rw [lineAt, BitVec.setWidth_ofNat_of_le_of_lt (by decide) hn]

/-! ## A whole transfer -/

/-- A transfer of `n + 1` lines ends in FETCH_OP with `offset` 0 and its last line cached. Beside that it changes the node
registers and the record of their writes alone (R121, R132, R133). -/
theorem finishTransfer_frame (base : Nat) (wsel : Bool) {n : Nat} {s : State} (ho : s.auto.offset = 0) (hn : n < 32) :
    (finishTransfer base (n + 1) wsel s).auto = { s.auto with st := .fetchOp, offset := 0 } ∧
    (finishTransfer base (n + 1) wsel s).adaptor =
      Adaptor.filled (s.auto.addr + BitVec.ofNat 24 n) (s.mem.readLine (s.auto.addr + BitVec.ofNat 24 n)) ∧
    (finishTransfer base (n + 1) wsel s).mem = s.mem ∧ SameQueues s (finishTransfer base (n + 1) wsel s) ∧
    (finishTransfer base (n + 1) wsel s).dfBusy = s.dfBusy := by
  rw [finishTransfer_of_start (by simp [ho])]
  refine ⟨?_, ?_, transferLines_frame base wsel (n + 1) s⟩
  · simp [endExecution, transferLines_auto]
  · rw [endExecution_adaptor, transferLines_adaptor, ho, zero_add, lineAt_ofNat _ hn]

/-! ## The two instructions -/

/-- Settles O16: the codes by `exec_configureStates_nodes`, the rest as after any transfer of 16 lines. -/
theorem configureStatesGivesEveryNodeItsCode : Obligations.ConfigureStatesGivesEveryNodeItsCode := by
  unfold Obligations.ConfigureStatesGivesEveryNodeItsCode
  intro line s
  obtain ⟨t, ht, hcodes, hweights⟩ := exec_configureStates_nodes line s
  have hframe := finishTransfer_frame stateNodeBase false (n := 15)
    (s := stage .configureStates .configureStates line s) rfl (by decide)
  cases ht
  exact ⟨_, rfl, hcodes, hweights, hframe⟩

/-- Settles O17: the weights by `exec_configureWeights_nodes`, the rest as after any transfer of 8 lines. -/
theorem configureWeightsGivesEveryMultiplierItsWeight :
    Obligations.ConfigureWeightsGivesEveryMultiplierItsWeight := by
  unfold Obligations.ConfigureWeightsGivesEveryMultiplierItsWeight
  intro line s
  obtain ⟨t, ht, hmults, hadders, hcodes⟩ := exec_configureWeights_nodes line s
  have hframe := finishTransfer_frame params.weightNodeBase true (n := 7)
    (s := stage .configureWeights .configureWeights line s) rfl (by decide)
  have hweights (n : Nat) (hn : n < Config.numNodes) :
      t.nodeWeight[n] = if 31 ≤ n then payloadByte s.mem line (n - 31) else s.nodeWeight[n] := by
    split
    · next hle =>
      obtain ⟨j, rfl⟩ := Nat.exists_eq_add_of_le hle
      rw [hmults j hn, Nat.add_sub_cancel_left]
    · next hlt => exact hadders n hn (Nat.lt_of_not_le hlt)
  cases ht
  exact ⟨_, rfl, hweights, hcodes, hframe⟩

end Sys2Proof.Machine
end

section
/-! PROOFS. The fan-out in one clock cycle, from any state (42_configuration.md R129 to R131, R138 to R140): what the four
lanes carry, what the multiplexer makes of them, and what the node registers take. -/

namespace Sys2Proof.Machine

/-! ## The lanes -/

theorem lanesOff_get (i : Nat) (hi : i < 4) : lanesOff[i] = Lane.off := by
  match i with
  | 0 | 1 | 2 | 3 => rfl

/-- Lane `i` carries byte `i` of the line (R130). -/
theorem driveLanes_get (base offset : Nat) (wsel : Bool) (L : Line) (i : Nat) (hi : i < 4) :
    (driveLanes base offset wsel L)[i] = driveLane base offset wsel i L[i] := by
  match i with
  | 0 | 1 | 2 | 3 => rfl

/-- A transfer that requests a line has lines left (R111). -/
theorem offset_lt_of_transferRequest {iters : Nat} {a : Automaton} (hq : (transferRequest iters a).req = true) :
    a.offset.toNat < iters := by
  by_contra hge
  simp [transferRequest, hge, Request.quiet] at hq

/-- A transfer that receives no line drives no lane (R132, R133). -/
theorem transferCycle_lanes_of_not_ready (base iters : Nat) (wsel : Bool) (L : Line) (a : Automaton) :
    (transferCycle base iters wsel false L a).lanes = lanesOff := by
  rw [transferCycle, if_neg Bool.false_ne_true]
  split <;> rfl

section
variable {inp : Inputs} {s t : State}

/-- The lanes are the automaton's rule's (R129). -/
theorem outputs_lanes (hr : inp.rst = false) : (outputs inp s).lanes = (automatonAnswer inp s).lanes := by
  obtain ⟨-, -, hlanes, -⟩ := coreCycleOf_of_not_rst (s := s) hr
  exact hlanes

/-- A transfer that receives a line drives all four lanes, and has that line left (R132, R133). -/
theorem outputs_lanes_of_transfer {base iters : Nat} {wsel : Bool} (hr : inp.rst = false) (ha : accepts inp s = true)
    (hq : request params s.auto = transferRequest iters s.auto)
    (hau : automatonAnswer inp s =
      transferCycle base iters wsel (accepts inp s) (adaptorAnswer inp s).rdLine s.auto) :
    s.auto.offset.toNat < iters ∧
      (outputs inp s).lanes = driveLanes base s.auto.offset.toNat wsel (adaptorAnswer inp s).rdLine := by
  obtain ⟨hreq, -⟩ := Bool.and_eq_true_iff.mp ha
  have hlt := offset_lt_of_transferRequest (hq ▸ hreq)
  exact ⟨hlt, by rw [outputs_lanes hr, hau, ha, transferCycle, if_neg hlt.ne, if_pos rfl]⟩

/-- With `rst`, without an acceptance, and outside the transfer states no lane is driven (R110, R129). -/
theorem outputs_lanes_off (h : inp.rst = true ∨ accepts inp s = false ∨
    (s.auto.st ≠ .configureStates ∧ s.auto.st ≠ .configureWeights)) : (outputs inp s).lanes = lanesOff := by
  cases hr : inp.rst with
  | true => rw [outputs, coreCycleOf_of_rst hr]; rfl
  | false =>
    rw [outputs_lanes hr]
    rcases h with hr' | ha | ⟨hs, hw⟩
    · simp [hr] at hr'
    · by_cases hs : s.auto.st = .configureStates
      · rw [automatonAnswer_configureStates hs, ha, transferCycle_lanes_of_not_ready]
      · by_cases hw : s.auto.st = .configureWeights
        · rw [automatonAnswer_configureWeights hw, ha, transferCycle_lanes_of_not_ready]
        · exact automatonAnswer_lanes_off hs hw
    · exact automatonAnswer_lanes_off hs hw

end

/-- Settles O45: the lanes of the two transfers, whose offsets are below 16 and 8, and the lanes off. -/
theorem lanesAreContiguousAndUniform : Obligations.LanesAreContiguousAndUniform := by
  unfold Obligations.LanesAreContiguousAndUniform
  refine fun inp s => ⟨fun hr ha hs i hi => ?_, fun hr ha hs i hi => ?_, fun h i hi => ?_⟩
  · obtain ⟨hlt, hlanes⟩ := outputs_lanes_of_transfer hr ha (by rw [request, hs]) (automatonAnswer_configureStates hs)
    rw [itersS_eq] at hlt
    refine ⟨?_, by omega⟩
    simp [hlanes, driveLanes_get _ _ _ _ _ hi, driveLane, nodeAddr]
  · obtain ⟨hlt, hlanes⟩ := outputs_lanes_of_transfer hr ha (by rw [request, hs]) (automatonAnswer_configureWeights hs)
    rw [params_itersW] at hlt
    refine ⟨?_, by omega⟩
    simp [hlanes, driveLanes_get _ _ _ _ _ hi, driveLane, nodeAddr]
  · simp only [outputs_lanes_off h]
    exact lanesOff_get i hi

/-! ## The multiplexer -/

section
variable {lanes : Vector Lane 4} {n : Nat}

/-- A node that no enabled lane addresses receives nothing (R138). -/
theorem muxNode_of_not_addressed
    (h : ∀ (i : Nat) (hi : i < 4), ¬ ((lanes[i]).en = true ∧ (lanes[i]).node.toNat = n)) :
    muxNode lanes n = NodeConfig.off := by
  have hnone : lanes.toList.find? (fun ln => ln.en && ln.node.toNat == n) = none := by
    rw [List.find?_eq_none]
    intro ln hln
    obtain ⟨i, hi, rfl⟩ := List.getElem_of_mem hln
    simpa using h i (by simpa using hi)
  rw [muxNode, hnone]

/-- A node receives from the lowest enabled lane that addresses it (R139). -/
theorem muxNode_of_lowest {i : Nat} (hi : i < 4) (hen : (lanes[i]).en = true) (hnode : (lanes[i]).node.toNat = n)
    (hlow : ∀ (j : Nat) (hj : j < i), ¬ ((lanes[j]).en = true ∧ (lanes[j]).node.toNat = n)) :
    muxNode lanes n = ⟨true, (lanes[i]).data, (lanes[i]).wsel⟩ := by
  have hfind : lanes.toList.find? (fun ln => ln.en && ln.node.toNat == n) = some lanes[i] := by
    rw [List.find?_eq_some_iff_getElem]
    exact ⟨by simp [hen, hnode], i, by simpa using hi, by simp, fun j hj => by simpa [imp_iff_not_or] using hlow j hj⟩
  rw [muxNode, hfind]

end

@[simp] theorem muxNode_lanesOff (n : Nat) : muxNode lanesOff n = NodeConfig.off := rfl

/-- In every cycle a node's inputs are what the multiplexer routes to it (R138). -/
theorem outputs_nodes (inp : Inputs) (s : State) {n : Nat} (hn : n < Config.numNodes) :
    (outputs inp s).nodes[n] = muxNode (outputs inp s).lanes n := by
  cases hr : inp.rst with
  | true => simp [outputs, coreCycleOf_of_rst hr, rstOutputs]
  | false => simp [outputs, coreCycleOf, coreCycle, coreInputs, hr]

/-- Settles O46: the routing of every cycle, and the two cases of the multiplexer. -/
theorem multiplexerTakesTheLowestLane : Obligations.MultiplexerTakesTheLowestLane := by
  unfold Obligations.MultiplexerTakesTheLowestLane
  exact ⟨fun inp s _ hn => outputs_nodes inp s hn, fun _ _ =>
    ⟨muxNode_of_not_addressed, fun _ hi hen hnode hlow => muxNode_of_lowest hi hen hnode hlow⟩⟩

/-! ## The node registers -/

/-- With no lane enabled no node receives anything, so the sink keeps every register (R138, R140). -/
theorem muxNode_of_not_any {lanes : Vector Lane 4} (h : ¬ lanes.toList.any Lane.en = true) (n : Nat) :
    muxNode lanes n = NodeConfig.off := by
  refine muxNode_of_not_addressed fun i hi ⟨hen, _⟩ => h ?_
  exact List.any_eq_true.mpr ⟨lanes[i], by simp, hen⟩

section
variable (lanes : Vector Lane 4) (s : State) {n : Nat} (hn : n < Config.numNodes)

/-- The lanes reach a node's state code through the multiplexer, enabled or not (R140). -/
theorem sinkLanes_nodeState_get : (sinkLanes lanes s).nodeState[n] = sinkState lanes n s.nodeState[n] := by
  unfold sinkLanes
  split
  · exact mapNodes_get _ _ n hn
  · next hoff => rw [sinkState, muxNode_of_not_any hoff]; rfl

/-- The same for a node's weight (R140). -/
theorem sinkLanes_nodeWeight_get : (sinkLanes lanes s).nodeWeight[n] = sinkWeight lanes n s.nodeWeight[n] := by
  unfold sinkLanes
  split
  · exact mapNodes_get _ _ n hn
  · next hoff => rw [sinkWeight, muxNode_of_not_any hoff]; rfl

end

/-- Settles O47: the node registers are what the sink makes of the cycle's lanes, and a node's inputs are the
multiplexer's. -/
theorem nodeRegistersFollowTheirInputs : Obligations.NodeRegistersFollowTheirInputs := by
  unfold Obligations.NodeRegistersFollowTheirInputs
  intro inp s t hc n hn
  obtain ⟨-, -, ht⟩ := clock_next hc
  obtain ⟨hstate, hweight⟩ := environmentCycle_nodes inp (outputs inp s) s
  simp only [outputs_nodes inp s hn, ht, hstate, hweight,
    sinkLanes_nodeState_get _ _ hn, sinkLanes_nodeWeight_get _ _ hn]
  simp [sinkState, sinkWeight]

end Sys2Proof.Machine
end

section
/-! PROOFS. The hand-offs of `LoadFeatures` and `StoreFeatures` (43_handoff.md R143 to R145, R147): one lemma over the
opcode, which each of the two is an instance of. -/

namespace Sys2Proof.Machine

/-- A hand-off changes no byte outside the lines the dataflow core writes (R147). -/
theorem performHandoff_read_other (s : State) {a : Nat}
    (ha : ∀ w ∈ dataflowWrites s, ∀ i < 4, a ≠ byteKey w.line i) : (performHandoff s).mem.read a = s.mem.read a := by
  rw [performHandoff_mem]
  exact Memory.read_writeLines_other s.mem (dataflowWrites s) ha

/-- The hand-off of a feature transfer, whichever opcode is staged: the operands once, and the dataflow core's writes
(R143 to R145, R147). -/
theorem performHandoff_stageFeatures (op : Opcode) (st : AutoState) (pbuf lcount : Byte) (line : LineAddr) {s t : State}
    (ht : t = performHandoff (stageFeatures op st pbuf lcount line s)) :
    t.auto = { s.auto with
        st := .fetchOp
        opcode := op.code
        nParams := BitVec.ofNat 3 op.arity
        paramCnt := BitVec.ofNat 3 op.arity
        addr := line
        pbuf := pbuf
        lcount := lcount
        offset := 0
        wrWait := false } ∧
      t.adaptor = s.adaptor ∧ SameNodes s t ∧ t.events = .handOff op.code line pbuf lcount :: s.events ∧
      t.mem = s.mem.writeLines (dataflowWrites s) ∧
      (∀ a, (∀ w ∈ dataflowWrites s, ∀ i < 4, a ≠ byteKey w.line i) → t.mem.read a = s.mem.read a) ∧
      t.inputs = s.inputs ∧ t.thereafter = s.thereafter ∧ t.handoffWrites = s.handoffWrites.tail ∧
      t.handoffDraws = drawsAfter s ∧
      t.dfBusy = false := by
  subst ht
  exact ⟨performHandoff_auto _, performHandoff_adaptor _, ⟨performHandoff_nodeState _, performHandoff_nodeWeight _⟩,
    performHandoff_events _, performHandoff_mem _,
    fun _ ha => performHandoff_read_other (stageFeatures op st pbuf lcount line s) ha,
    performHandoff_inputs _, performHandoff_thereafter _, performHandoff_handoffWrites _,
    performHandoff_handoffDraws _, performHandoff_dfBusy _⟩

/-- Settles O19: the hand-off of a feature transfer with the opcode 0x04, and with 0x05. -/
theorem featureTransfersHandOffTheirOperands : Obligations.FeatureTransfersHandOffTheirOperands := by
  unfold Obligations.FeatureTransfersHandOffTheirOperands
  exact fun pbuf lcount line _ =>
    ⟨⟨_, rfl, performHandoff_stageFeatures .loadFeatures .loadFeatures pbuf lcount line rfl⟩,
      ⟨_, rfl, performHandoff_stageFeatures .storeFeatures .storeFeatures pbuf lcount line rfl⟩⟩

end Sys2Proof.Machine
end

section
/-! PROOFS. `Debug` and its snapshot (44_debug.md R148 to R151): the layout of SNAP, the state that the 24 line writes
leave, the transfers that load the snapshot back, and one clock cycle of DEBUG. -/

namespace Sys2Proof.Machine

/-! ## The layout of the snapshot (R149) -/

section
variable (S W : Vector Byte Config.numNodes)

theorem snap_get (P : Params) (k : Nat) {i : Nat} (hi : i < 4) : (snap P S W k)[i] = snapByte P S W k i := by
  rcases i with _ | _ | _ | _ | i
  · rfl
  · rfl
  · rfl
  · rfl
  · omega

theorem nodeByte_of_lt (v : Vector Byte Config.numNodes) {n : Nat} (hn : n < Config.numNodes) : nodeByte v n = v[n] :=
  dif_pos hn

/-- Lines 0 to 15 hold the state codes, from node 0 on. -/
theorem snapByte_of_lt {k : Nat} (hk : k < 16) (i : Nat) : snapByte params S W k i = nodeByte S (4 * k + i) := by
  rw [snapByte, if_pos (show k < itersS from hk), stateNodeBase, Nat.zero_add]

/-- The lines from 16 on hold the weights, from node 31 on. -/
theorem snapByte_of_ge {k : Nat} (hk : 16 ≤ k) (i : Nat) :
    snapByte params S W k i = nodeByte W (31 + 4 * (k - 16) + i) :=
  if_neg (Nat.not_lt.mpr hk)

end

/-- Settles O22: byte `i` of a line below 16 is the state code of node `4k + i`, and node 63 does not exist; from line
16 on it is the weight of node `31 + 4(k - 16) + i`. -/
theorem snapshotIsThePayloadLayout : Obligations.SnapshotIsThePayloadLayout := by
  unfold Obligations.SnapshotIsThePayloadLayout
  intro S W k i hi
  rw [snap_get S W params k hi]
  refine ⟨fun hk h => ?_, fun hk hi3 => ?_, fun hk _ h => ?_⟩
  · rw [snapByte_of_lt S W hk, nodeByte_of_lt S h]
  · rw [hk, hi3]
    rfl
  · rw [snapByte_of_ge S W hk, nodeByte_of_lt W h]

/-! ## The lines of a snapshot, written to `M` -/

/-- The first `n` line writes of a snapshot from `line` on, in order (R148, R149). -/
def snapshotWrites (P : Params) (line : LineAddr) (S W : Vector Byte Config.numNodes) (n : Nat) : List LineWrite :=
  (List.range n).map fun k => ⟨line + BitVec.ofNat 24 k, snap P S W k⟩

section
variable (P : Params) (line : LineAddr) (S W : Vector Byte Config.numNodes)

theorem writeLines_snapshotWrites_succ (m : Memory) (n : Nat) :
    m.writeLines (snapshotWrites P line S W (n + 1)) =
      (m.writeLines (snapshotWrites P line S W n)).writeLine (line + BitVec.ofNat 24 n) (snap P S W n) := by
  rw [snapshotWrites, List.range_succ, List.map_append, Memory.writeLines_append]
  rfl

/-- No line of a snapshot is written over by a later one, as far as there are lines (R11). -/
theorem readLine_writeLines_snapshotWrites (m : Memory) {n k : Nat} (hn : n ≤ 2 ^ 24) (hk : k < n) :
    (m.writeLines (snapshotWrites P line S W n)).readLine (line + BitVec.ofNat 24 k) = snap P S W k := by
  induction n with
  | zero => omega
  | succ n ih =>
    rw [writeLines_snapshotWrites_succ]
    rcases Nat.lt_succ_iff_lt_or_eq.mp hk with hlt | rfl
    · rw [Memory.readLine_writeLine_other _ (by bv_omega), ih (by omega) hlt]
    · exact Memory.readLine_writeLine_same _ _ _

theorem read_writeLines_snapshotWrites_other (m : Memory) {n a : Nat} (ha : ¬ inLines line n a) :
    (m.writeLines (snapshotWrites P line S W n)).read a = m.read a := by
  refine Memory.read_writeLines_other m _ fun w hw i hi heq => ?_
  obtain ⟨k, hk, rfl⟩ := List.mem_map.mp hw
  exact ha ⟨k, List.mem_range.mp hk, i, hi, heq⟩

end

/-! ## `Debug` as a whole -/

/-- The last of `n + 1` lines comes after the `n` before it (R150). -/
theorem debugLines_succ (P : Params) (n : Nat) (s : State) :
    debugLines P (n + 1) s = debugAck (debugAccept P (debugLines P n s)) := by
  induction n generalizing s with
  | zero => rfl
  | succ n ih => exact ih (debugAck (debugAccept P s))

/-- One line of DEBUG, accepted and acknowledged (R148, R151). -/
theorem debugAck_debugAccept (P : Params) (s : State) : debugAck (debugAccept P s) =
    { s with
      auto := { s.auto with wrWait := false, offset := s.auto.offset + 1 }
      adaptor := { s.adaptor with cValid := false }
      mem := s.mem.writeLine (lineAt s.auto.addr s.auto.offset)
        (snap P s.nodeState s.nodeWeight s.auto.offset.toNat)
      events := .lineWrite (lineAt s.auto.addr s.auto.offset)
        (snap P s.nodeState s.nodeWeight s.auto.offset.toNat) :: s.events } := rfl

/-- The whole state after the first `n + 1` lines of DEBUG: they are in `M` and observed in order, `offset` counts them,
and nothing is cached (R148, R151). -/
theorem debugLines_of_start (P : Params) {s : State} (ho : s.auto.offset = 0) {n : Nat} (hn : n < 31) :
    debugLines P (n + 1) s =
      { s with
        auto := { s.auto with wrWait := false, offset := BitVec.ofNat 5 (n + 1) }
        adaptor := { s.adaptor with cValid := false }
        mem := s.mem.writeLines (snapshotWrites P s.auto.addr s.nodeState s.nodeWeight (n + 1))
        events := ((List.range (n + 1)).map fun k => Event.lineWrite (s.auto.addr + BitVec.ofNat 24 k)
          (snap P s.nodeState s.nodeWeight k)).reverse ++ s.events } := by
  induction n with
  | zero => simp [debugLines, debugAck_debugAccept, ho, lineAt, snapshotWrites, Memory.writeLines]
  | succ n ih =>
    have hcount : (BitVec.ofNat 5 (n + 1)).toNat = n + 1 := Nat.mod_eq_of_lt (by omega)
    have hline := lineAt_ofNat s.auto.addr (n := n + 1) (by omega)
    rw [debugLines_succ, ih (by omega), debugAck_debugAccept]
    simp only [hcount, hline, writeLines_snapshotWrites_succ P _ _ _ _ (n + 1), List.range_succ (n := n + 1),
      BitVec.ofNat_add (n + 1) 1, List.map_append, List.reverse_append]
    rfl

theorem finishDebug_of_start {s : State} (ho : s.auto.offset = 0) (hw : s.auto.wrWait = false) :
    finishDebug params s = endExecution (debugLines params 24 s) := by
  have hleft : debugRemaining params s.auto.offset = 24 := by rw [ho]; decide
  simp [finishDebug, hw, hleft]

/-- What `n + 1` lines of a `Debug` just dispatched leave, after its end cycle (R148 to R151). -/
theorem endExecution_debugLines_stage (P : Params) (line : LineAddr) (s : State) {n : Nat} (hn : n < 31) {t : State}
    (ht : t = endExecution (debugLines P (n + 1) (stage .debug .debug line s))) :
    (∀ k < n + 1, t.mem.readLine (line + BitVec.ofNat 24 k) = snap P s.nodeState s.nodeWeight k) ∧
    (∀ a, ¬ inLines line (n + 1) a → t.mem.read a = s.mem.read a) ∧
    (s.mem.wf = true → t.mem.wf = true) ∧ SameNodes s t ∧
    t.auto = { s.auto with
        st := .fetchOp
        opcode := 0x07
        nParams := 3
        paramCnt := 3
        addr := line
        offset := 0
        wrWait := false } ∧
    t.adaptor = { s.adaptor with cValid := false } ∧
    t.events = ((List.range (n + 1)).map fun k => Event.lineWrite (line + BitVec.ofNat 24 k)
      (snap P s.nodeState s.nodeWeight k)).reverse ++ s.events ∧
    SameQueues s t ∧ t.dfBusy = s.dfBusy := by
  rw [debugLines_of_start P rfl hn] at ht
  have hmem : t.mem = s.mem.writeLines (snapshotWrites P line s.nodeState s.nodeWeight (n + 1)) := by
    rw [ht]
    rfl
  rw [hmem]
  refine ⟨fun k hk => readLine_writeLines_snapshotWrites P line _ _ s.mem (by omega) hk,
    fun a ha => read_writeLines_snapshotWrites_other P line _ _ s.mem ha, fun hm => Memory.wf_writeLines hm _, ?_⟩
  subst ht
  exact ⟨⟨rfl, rfl⟩, rfl, rfl, rfl, ⟨rfl, rfl, rfl, rfl⟩, rfl⟩

/-- Settles O21: `Debug` is its 24 lines and its end cycle. -/
theorem debugWritesTheSnapshot : Obligations.DebugWritesTheSnapshot := by
  unfold Obligations.DebugWritesTheSnapshot
  intro line s
  have hleaves := endExecution_debugLines_stage params line s (n := 23) (by decide) rfl
  rw [← finishDebug_of_start (s := stage .debug .debug line s) rfl rfl] at hleaves
  exact ⟨_, rfl, hleaves⟩

/-! ## The snapshot loaded back (R142, R149) -/

/-- Byte `n` of the lines from line `k` on is byte `4k + n` of the lines from the first on. -/
theorem payloadByte_line_add (m : Memory) (line : LineAddr) (k n : Nat) :
    payloadByte m (line + BitVec.ofNat 24 k) n = payloadByte m line (4 * k + n) := by
  have hline : (4 * k + n) / 4 = k + n / 4 := by omega
  have hsel : (4 * k + n) % 4 = n % 4 := by omega
  rw [payloadByte, payloadByte, hline, hsel, BitVec.ofNat_add, BitVec.add_assoc]

/-- `Debug` leaves the snapshot as a payload of 96 bytes from its operand on. -/
theorem payloadByte_of_debug {line : LineAddr} {s t : State} (ht : exec (.debug line) s = .next t) {k i : Nat}
    (hk : k < 24) (hi : i < 4) : payloadByte t.mem line (4 * k + i) = snapByte params s.nodeState s.nodeWeight k i := by
  obtain ⟨t', ht', hlines, -⟩ := debugWritesTheSnapshot line s
  obtain rfl : t' = t := Host.Outcome.next.inj (ht'.symm.trans ht)
  rw [← payloadByte_line_add, ← snap_get _ _ _ _ hi, ← hlines k hk, Memory.readLine_get _ _ hi]
  simp [payloadByte, Nat.div_eq_of_lt hi, Nat.mod_eq_of_lt hi]

/-- Byte `n` of the snapshot is the state code of node `n`. -/
theorem payloadByte_of_debug_state {line : LineAddr} {s t : State} (ht : exec (.debug line) s = .next t) {n : Nat}
    (hn : n < Config.numNodes) : payloadByte t.mem line n = s.nodeState[n] := by
  have hk : n / 4 < 16 := by simp only [Config.numNodes] at hn; omega
  have hbyte := payloadByte_of_debug ht (show n / 4 < 24 by omega) (Nat.mod_lt n (by decide))
  rwa [snapByte_of_lt _ _ hk, Nat.div_add_mod, nodeByte_of_lt _ hn] at hbyte

/-- Byte `j` of the snapshot from its line 16 on is the weight of node `31 + j`. -/
theorem payloadByte_of_debug_weight {line : LineAddr} {s t : State} (ht : exec (.debug line) s = .next t) {j : Nat}
    (hj : 31 + j < Config.numNodes) : payloadByte t.mem (line + 16) j = s.nodeWeight[31 + j] := by
  have hk : 16 + j / 4 < 24 := by simp only [Config.numNodes] at hj; omega
  have hbyte := payloadByte_of_debug ht hk (Nat.mod_lt j (by decide))
  rw [snapByte_of_ge _ _ (Nat.le_add_right 16 _), Nat.add_sub_cancel_left, Nat.add_assoc, Nat.div_add_mod,
    nodeByte_of_lt _ hj, Nat.mul_add, Nat.add_assoc, Nat.div_add_mod] at hbyte
  exact (payloadByte_line_add t.mem line 16 j).trans hbyte

/-- Settles O23: each transfer gives every node its byte of the payload, which is the one the snapshot holds for it. -/
theorem snapshotReloads : Obligations.SnapshotReloads := by
  unfold Obligations.SnapshotReloads
  intro line s t u ht hmem
  refine ⟨?_, ?_⟩
  · obtain ⟨v, hv, hcodes, -⟩ := exec_configureStates_nodes line u
    refine ⟨v, hv, Vector.ext fun n hn => ?_⟩
    rw [hcodes n hn, hmem, payloadByte_of_debug_state ht hn]
  · obtain ⟨v, hv, hmults, -⟩ := exec_configureWeights_nodes (line + 16) u
    refine ⟨v, hv, fun n hn hle => ?_⟩
    obtain ⟨j, rfl⟩ := Nat.exists_eq_add_of_le hle
    rw [hmults j hn, hmem, payloadByte_of_debug_weight ht hn]

/-! ## One cycle of DEBUG (R148, R57) -/

section
variable {inp : Inputs} {s t : State}

/-- In a cycle of DEBUG `M` takes the line the port accepts and nothing else (R59). -/
theorem clock_mem_debug (hs : s.auto.st = .debug) (hc : clock inp s = .next t) : t.mem =
    if (outputs inp s).wrReq && inp.wrReady then s.mem.writeLine (outputs inp s).wrAddr (outputs inp s).wrData
    else s.mem := by
  obtain ⟨hadm, -, -⟩ := clock_next hc
  rw [clock_mem hc, hadm.hostWrites_eq_nil (by simp [hs]), hadm.dfWrites_eq_nil (by rw [hs]; rfl),
    Memory.writeLines_nil, Memory.writeLines_nil]

/-- A line accepted and not yet acknowledged is only awaited; its acknowledge counts it (R148). -/
theorem automatonAnswer_of_wrWait (hs : s.auto.st = .debug) (hn : s.auto.offset.toNat ≠ params.debugLines)
    (hw : s.auto.wrWait = true) : automatonAnswer inp s =
      if inp.wrAck then
        { AutoCycle.quiet { s.auto with wrWait := false, offset := s.auto.offset + 1 } with clear := true }
      else .quiet s.auto := by
  rw [automatonAnswer_debug hs, debugCycle, if_neg hn, if_pos hw]
  rfl

/-- The adaptor after a cycle in which the automaton's rule clears the cache valid bit (R72). -/
theorem clock_cValid_of_clear (hr : inp.rst = false) (hc : clock inp s = .next t)
    (hclear : (automatonAnswer inp s).clear = true) : t.adaptor.cValid = false := by
  obtain ⟨-, -, ht⟩ := clock_next hc
  obtain ⟨-, hadaptor, -⟩ := coreCycleOf_of_not_rst (s := s) hr
  rw [if_pos hclear] at hadaptor
  rw [ht, hadaptor]

end

/-- Settles O39: where `wr_wait` is 0 the rule presents the line at `offset`, and where it is 1 nothing. -/
theorem debugPresentsAcceptsAndAcknowledges : Obligations.DebugPresentsAcceptsAndAcknowledges := by
  unfold Obligations.DebugPresentsAcceptsAndAcknowledges
  intro inp s hr hadm hs hn
  obtain ⟨t, hc⟩ := exists_clock_of_admitted hadm (by simp [hs])
  obtain ⟨-, -, -, hreq, haddr, hdata, -⟩ := coreCycleOf_of_not_rst (s := s) hr
  have hauto := clock_auto hr hc
  have hmem := clock_mem_debug hs hc
  have hnodes : SameNodes s t := ⟨clock_nodeState hr (by simp [hs]) hc, clock_nodeWeight hr (by simp [hs]) hc⟩
  refine ⟨t, hc, hnodes, fun hw => ?_, fun hw => ?_⟩
  · have hpresents := automatonAnswer_wrReq_iff (inp := inp).mpr ⟨hs, hn, hw⟩
    obtain ⟨hline, hsnap, hnext⟩ := automatonAnswer_of_wrReq hpresents
    refine ⟨hreq.trans hpresents, haddr.trans hline, hdata.trans hsnap, ?_, ?_⟩
    · rw [hauto, hnext]
      cases hready : inp.wrReady with
      | true => rfl
      | false => exact congrArg (fun w => { s.auto with wrWait := w }) hw
    · rwa [hreq.trans hpresents, Bool.true_and] at hmem
  · have hquiet : (outputs inp s).wrReq = false := by
      rw [hreq, Bool.eq_false_iff, Ne, automatonAnswer_wrReq_iff]
      simp [hw]
    have hans := automatonAnswer_of_wrWait (inp := inp) hs hn hw
    refine ⟨hquiet, by simpa [hquiet] using hmem, fun hack => ?_, fun hack => ⟨?_, ?_⟩⟩
    · rw [hauto, hans, hack]
      rfl
    · rw [hauto, hans, hack]
      rfl
    · exact clock_cValid_of_clear hr hc (by rw [hans, hack]; rfl)

end Sys2Proof.Machine
end

section
/-! PROOFS. The waits (60_exceptions.md R158): a cycle without the awaited input keeps the automaton's registers, from any
state, and leaves the machine in the same wait; so a steady environment that never gives the input never ends it. -/

namespace Sys2Proof.Machine

section
variable {inp : Inputs} {s t : State}

/-! ## A cycle without the awaited input -/

/-- Without the line, a request that needs the memory is not answered, and its fetch is outstanding afterwards (R65, R67,
R68). -/
theorem adaptorAnswer_of_pending (hp : Pending s) (hv : inp.rdValid = false) :
    (adaptorAnswer inp s).byteReady = false ∧ (adaptorAnswer inp s).next.phase ≠ .idle := by
  obtain ⟨hq, hmiss⟩ := hp
  have hoffered (b : Bool) : (if b = true then FetchPhase.wait else .issue) ≠ .idle := by cases b <;> decide
  rw [adaptorAnswer]
  cases hphase : s.adaptor.phase with
  | idle =>
    rw [adaptorCycle_of_miss hphase hq hmiss]
    exact ⟨rfl, hoffered _⟩
  | issue =>
    rw [adaptorCycle_of_issue hphase]
    exact ⟨rfl, hoffered _⟩
  | wait =>
    rw [adaptorCycle_of_waiting hphase hv]
    exact ⟨rfl, by simp [hphase]⟩

/-- DEBUG, a hand-off and RESET request no byte and no line (R111). -/
theorem request_of_unanswered (hu : Unanswered inp s) : request params s.auto = .quiet := by
  obtain ⟨hs, -⟩ | ⟨hs, -⟩ | ⟨hh, -⟩ | ⟨hs, -⟩ := hu
  · simp [request, hs]
  · simp [request, hs]
  · exact request_handoff hh params
  · simp [request, hs]

/-- The rules of DEBUG, of a hand-off and of RESET keep every register without the input they await (R112, R143, R148). -/
theorem automatonAnswer_next_of_unanswered (hu : Unanswered inp s) : (automatonAnswer inp s).next = s.auto := by
  obtain ⟨hs, hn, hw, hi⟩ | ⟨hs, hn, hw, hi⟩ | ⟨hh, hi⟩ | ⟨hs, hi⟩ := hu
  · obtain ⟨-, -, hnext⟩ := automatonAnswer_of_wrReq (automatonAnswer_wrReq_iff.mpr ⟨hs, hn, hw⟩)
    rw [hnext, hi, if_neg nofun]
  · rw [automatonAnswer_of_wrWait hs hn hw, hi]
    rfl
  · rw [automatonAnswer_handoff hh, hi]
    rfl
  · rw [automatonAnswer_reset hs, hi]
    rfl

/-- A cycle without the awaited input keeps the automaton's registers (R158). -/
theorem clock_auto_of_wait (hr : inp.rst = false) (hc : clock inp s = .next t)
    (hw : ((request params s.auto).req = true ∧ (adaptorAnswer inp s).byteReady = false) ∨ Unanswered inp s) :
    t.auto = s.auto := by
  rw [clock_auto hr hc]
  obtain ⟨hq, hready⟩ | hu := hw
  · exact automatonAnswer_next_of_not_accepts hq (by simp [accepts, hready])
  · exact automatonAnswer_next_of_unanswered hu

/-- The adaptor's phase after a cycle is the one it answers: a clear touches the cache valid bit only (R72). -/
theorem clock_phase (hr : inp.rst = false) (hc : clock inp s = .next t) :
    t.adaptor.phase = (adaptorAnswer inp s).next.phase := by
  obtain ⟨-, -, ht⟩ := clock_next hc
  obtain ⟨-, hadaptor, -⟩ := coreCycleOf_of_not_rst (s := s) hr
  rw [ht, hadaptor]
  split <;> rfl

/-- A clock cycle uses up none of the environment's further cycles. -/
theorem clock_environment (hc : clock inp s = .next t) : t.inputs = s.inputs ∧ t.thereafter = s.thereafter := by
  obtain ⟨-, -, ht⟩ := clock_next hc
  rw [ht]
  unfold environmentCycle hostPort dataflowCore presentHandoff writePort
  dsimp only
  split_ifs <;> exact ⟨by simp, by simp⟩

/-! ## The waits -/

/-- A wait of R158 whose awaited input is absent in the cycle. -/
abbrev Waits (inp : Inputs) (s : State) : Prop := (Pending s ∧ inp.rdValid = false) ∨ Unanswered inp s

theorem Waits.accepts_eq_false (hw : Waits inp s) : accepts inp s = false := by
  obtain ⟨hp, hv⟩ | hu := hw
  · simp [accepts, (adaptorAnswer_of_pending hp hv).1]
  · simp [accepts, request_of_unanswered hu, Request.quiet]

/-- A wait is no dispatch (R115). -/
theorem Waits.dispatchStuck_eq_false (hw : Waits inp s) : dispatchStuck s.auto = false := by
  by_cases hs : s.auto.st = .fetchParams
  · obtain ⟨⟨hq, -⟩, -⟩ | hu := hw
    · have hne : s.auto.paramCnt ≠ s.auto.nParams := by
        intro heq
        simp [request, hs, heq, Request.quiet] at hq
      simp [dispatchStuck, hne]
    · simp [Unanswered, hs, AutoState.isHandoff] at hu
  · simp [dispatchStuck, hs]

theorem Waits.exists_clock (hw : Waits inp s) (hadm : Admitted inp s) : ∃ t, clock inp s = .next t := by
  simp [clock, hadm.1, hadm.2, hw.dispatchStuck_eq_false]

theorem Waits.clock_auto (hw : Waits inp s) (hr : inp.rst = false) (hc : clock inp s = .next t) : t.auto = s.auto :=
  clock_auto_of_wait hr hc (hw.imp_left fun ⟨hp, hv⟩ => ⟨hp.1, (adaptorAnswer_of_pending hp hv).1⟩)

theorem Waits.sameNodes (hw : Waits inp s) (hr : inp.rst = false) (hc : clock inp s = .next t) : SameNodes s t := by
  have hnodes := clock_nodes hr hc
  rwa [← outputs_lanes hr, outputs_lanes_off (.inr (.inl hw.accepts_eq_false)), sinkLanes_off] at hnodes

/-- A wait goes on: the fetch of a request is outstanding, and the other waits are a matter of the automaton's registers
alone (R158). -/
theorem Waits.of_clock (hw : Waits inp s) (hr : inp.rst = false) (hc : clock inp s = .next t) : Waits inp t := by
  have hauto := hw.clock_auto hr hc
  obtain ⟨hp, hv⟩ | hu := hw
  · have hphase : t.adaptor.phase ≠ .idle := by
      rw [clock_phase hr hc]
      exact (adaptorAnswer_of_pending hp hv).2
    exact .inl ⟨⟨hauto ▸ hp.1, Adaptor.not_hits_of_phase hphase _ _⟩, hv⟩
  · exact .inr (by rwa [Unanswered, hauto])

/-- The same inputs are admitted again: a host that writes finds RESET and the idle adaptor as they were (R174). -/
theorem Waits.admitted (hw : Waits inp s) (hadm : Admitted inp s) (hr : inp.rst = false) (hc : clock inp s = .next t) :
    Admitted inp t := by
  have hauto := hw.clock_auto hr hc
  refine ⟨?_, by rw [dataflowBreaksDuty, hauto]; exact hadm.2⟩
  by_cases hh : inp.hostWrites = []
  · simp [hostBreaksDuty, hh]
  · obtain ⟨hs, hi, -, hstart⟩ : s.auto.st = .reset ∧ s.adaptor.phase = .idle ∧ inp.rst = false ∧ inp.start = false := by
      simpa [hostBreaksDuty, hh, and_assoc] using hadm.1
    have hphase : t.adaptor.phase = .idle := by
      rw [clock_phase hr hc, adaptorAnswer, adaptorCycle_of_no_request hi (by simp [request, hs, Request.quiet]), hi]
    simp [hostBreaksDuty, hauto, hs, hphase, hr, hstart]

/-! ## A wait in a steady environment -/

/-- An environment that drives the admitted inputs `inp` for ever, and so never ends the wait of the state. -/
structure WaitsForEver (inp : Inputs) (s : State) : Prop where
  inputs : s.inputs = []
  thereafter : s.thereafter = .steady inp
  rst : inp.rst = false
  admitted : Admitted inp s
  waits : Waits inp s

/-- A step is then a clock cycle that keeps the wait (R158). -/
theorem WaitsForEver.exists_step (h : WaitsForEver inp s) :
    ∃ t, step s = .next t ∧ t.auto = s.auto ∧ SameNodes s t ∧ WaitsForEver inp t := by
  obtain ⟨t, hc⟩ := h.waits.exists_clock h.admitted
  obtain ⟨hinputs, hthereafter⟩ := clock_environment hc
  have hstep : step s = clock inp s := by simp only [step, h.inputs, h.thereafter]
  exact ⟨t, hstep.trans hc, h.waits.clock_auto h.rst hc, h.waits.sameNodes h.rst hc, hinputs.trans h.inputs,
    hthereafter.trans h.thereafter, h.rst, h.waits.admitted h.admitted h.rst hc, h.waits.of_clock h.rst hc⟩

/-- No number of steps ends the wait (R158). -/
theorem WaitsForEver.exists_run (n : Nat) (h : WaitsForEver inp s) :
    ∃ t, Host.Core.run Sys2Proof.core n s = .next t ∧ t.auto = s.auto ∧ SameNodes s t := by
  induction n generalizing s with
  | zero => exact ⟨s, rfl, rfl, rfl, rfl⟩
  | succ n ih =>
    obtain ⟨u, hstep, hauto, hnodes, hu⟩ := h.exists_step
    obtain ⟨t, hrun, hauto', hnodes'⟩ := ih hu
    have hcore : Sys2Proof.core.step s = .next u := hstep
    refine ⟨t, ?_, hauto'.trans hauto, hnodes'.1.trans hnodes.1, hnodes'.2.trans hnodes.2⟩
    simp only [Host.Core.run, hcore]
    exact hrun

end

/-- Settles O44: a cycle without the awaited input, and the run of a steady environment, by induction on its length. -/
theorem waitsKeepTheAutomaton : Obligations.WaitsKeepTheAutomaton := by
  unfold Obligations.WaitsKeepTheAutomaton
  exact ⟨fun _ _ _ hr hc hw => clock_auto_of_wait hr hc hw,
    fun n _ _ hi ht hr hadm hw => WaitsForEver.exists_run n ⟨hi, ht, hr, hadm, hw⟩⟩

end Sys2Proof.Machine
end

section
/-! PROOFS. Reset (70_reset_and_hazards.md R168, R170): the state after reset and its legality, and a clock cycle with
`rst`, from any state. -/

namespace Sys2Proof.Machine

/-- The automaton's reset values are the ones R168 lists. -/
theorem automaton_reset_eq_zeroed : Automaton.reset = zeroedAutomaton := rfl

/-- The adaptor's reset values are the ones R168 lists. -/
theorem adaptor_reset_eq_zeroed : Adaptor.reset = zeroedAdaptor := rfl

/-! ## The state after reset -/

/-- With nothing listed, a byte address reads as `MEM_INIT` (R58). -/
theorem Memory.read_nil (a : Nat) : Memory.read [] a = Config.memInit a := rfl

/-- The node registers after reset are `TREE_INIT` (R140). -/
theorem reset_nodes_get {n : Nat} (h : n < Config.numNodes) :
    State.reset.nodeState[n] = Config.treeInitState n ∧ State.reset.nodeWeight[n] = Config.treeInitWeight n :=
  ⟨Vector.getElem_ofFn h, Vector.getElem_ofFn h⟩

/-- Settles O1: CORE's registers, the two free launch values, and the model's own fields, one by one. -/
theorem resetStateHoldsTheResetValues : Obligations.ResetStateHoldsTheResetValues :=
  ⟨automaton_reset_eq_zeroed, adaptor_reset_eq_zeroed, rfl, Memory.read_nil, fun _ => reset_nodes_get,
    rfl, rfl, rfl, rfl, rfl, rfl⟩

/-- Settles O52: with every automaton register 0 and nothing cached, outstanding or observed, RESET is legal. -/
theorem resetStateIsLegal : Obligations.ResetStateIsLegal :=
  Settled.inv_of_reset ⟨rfl, reset_mem_wf, rfl⟩ rfl rfl

/-! ## A cycle with `rst` -/

section
variable {inp : Inputs} {s : State}

/-- With `rst` an admitted cycle gives the state of `clock_rst` from any state: not even a dispatch without an execute
state stops it (R110, R116). -/
theorem clock_of_rst (hadm : Admitted inp s) (hr : inp.rst = true) :
    clock inp s = .next { s with auto := Automaton.reset, adaptor := Adaptor.reset, dfBusy := false } := by
  have hnext : ∃ t, clock inp s = .next t := by simp [clock, hadm.1, hadm.2, hr]
  obtain ⟨t, hc⟩ := hnext
  rw [hc, clock_rst hr hc]

/-- In a cycle with `rst` `status` shows the old state, and CORE asks nothing of the memory or the dataflow core (R110,
R117). -/
theorem outputs_of_rst (hr : inp.rst = true) :
    (outputs inp s).status = s.auto.st.code ∧ (outputs inp s).rdReq = false ∧ (outputs inp s).wrReq = false ∧
    (outputs inp s).dfValid = false := by
  rw [outputs, coreCycleOf_of_rst hr]
  exact ⟨rfl, rfl, rfl, rfl⟩

end

/-- Settles O2: the state that a cycle with `rst` gives, and its outputs, of which the lanes are off and so the nodes
receive nothing. -/
theorem rstCycleResetsEveryCoreRegister : Obligations.RstCycleResetsEveryCoreRegister := by
  unfold Obligations.RstCycleResetsEveryCoreRegister
  intro inp s hr hadm
  obtain ⟨hstatus, hrd, hwr, hdf⟩ := outputs_of_rst (s := s) hr
  have hlanes : (outputs inp s).lanes = lanesOff := outputs_lanes_off (.inl hr)
  have hlane (i : Nat) (hi : i < 4) : ((outputs inp s).lanes[i]).en = false := by
    simp only [hlanes, lanesOff_get i hi]
    rfl
  have hnode (n : Nat) (hn : n < Config.numNodes) : ((outputs inp s).nodes[n]).en = false := by
    rw [outputs_nodes inp s hn, hlanes, muxNode_lanesOff]
    rfl
  exact ⟨_, clock_of_rst hadm hr, automaton_reset_eq_zeroed, adaptor_reset_eq_zeroed, rfl, ⟨rfl, rfl⟩,
    ⟨rfl, rfl, rfl, rfl⟩, rfl, hstatus, hrd, hwr, hdf, hlane, hnode⟩

end Sys2Proof.Machine
end
